-- ==== Sys2Proof/Word.lean ====
section
/-! DEFINITION. The two word types of the XL (00_scope.md R4, R7): the byte and the 16-bit address.
Everything that splits, joins or extends them is in Machine/Bits.lean. -/

namespace Sys2Proof

/-- "Byte is 8 bits" (R4, R5): the width of A, F, S, X, Y and of every memory cell. -/
abbrev Byte := BitVec 8

/-- A 16-bit address, `$0000` to `$FFFF` (R4, R40): the width of P and of every `addr`. -/
abbrev Address := BitVec 16

end Sys2Proof
end

