-- ==== Sys2Proof/Config.lean ====
section
/-! DEFINITION. What the spec leaves to the implementation or the platform, as named parameters
(00_scope.md R4; 92_eei_decisions.md, the table of named parameters): the two decided and switchable ones
with the value the spec decides, and the open one, the initial memory image, as a free value. -/

namespace Sys2Proof

/-- The two readings of C after a subtraction or a compare (92_eei_decisions.md D7). -/
inductive SubCarry where
  /-- C = 1 when no borrow occurred. -/
  | noBorrow
  /-- C = 1 when the difference is negative. -/
  | borrow
  deriving DecidableEq, Repr

/-- The three readings of opcode `$48` (92_eei_decisions.md D14; 90_conflicts.md C1). -/
inductive Op48 where
  | zry
  | zrx
  | refuse
  deriving DecidableEq, Repr

/-- `SUB_CARRY`, at the value the spec decides (45_compare_arith.md R170; D7). -/
def Config.subCarry : SubCarry := .noBorrow

/-- `OP48`, at the value the spec decides (30_encoding.md R79; D14). -/
def Config.op48 : Op48 := .zry

/-- `MEM_INIT`: the byte each address holds when the machine starts and nothing has been placed there
(70_reset_and_hazards.md R232; 93_implementation_defined.md U4: "any value"). FREE VALUE: it has no body, so no
proof can know a byte of it, and a claim holds for every initial image. Assumption log 2. -/
opaque Config.memInit : Address → Byte

end Sys2Proof
end

