-- ==== Sys2Proof/Machine/Bits.lean ====
section
/-! DEFINITION. Splitting, joining and extending bytes and words: the helpers of 00_scope.md R7
(`lo`, `hi`, concatenation, `sext_16`, `zext_16`). Bits are numbered from 0 (R6). -/

namespace Sys2Proof.Machine

/-- `lo(w)`: bits 7..0, the LSB (R7). -/
def lo (w : Address) : Byte := w.extractLsb' 0 8

/-- `hi(w)`: bits 15..8, the MSB (R7). -/
def hi (w : Address) : Byte := w.extractLsb' 8 8

/-- The word whose MSB is `h` and whose LSB is `l` (R7): `h * 256 + l`. -/
def word (h l : Byte) : Address := h ++ l

/-- `zext_16(b)`: the byte as a word, MSB 0 (R7). -/
def zext16 (b : Byte) : Address := b.setWidth 16

/-- `sext_16(b)`: the byte read as -128..+127, modulo 65536 (R7). -/
def sext16 (b : Byte) : Address := b.signExtend 16

/-- The zero-page address with LSB `l`: MSB 0 (20_memory.md R45, 30_encoding.md R69). -/
def zeroPage (l : Byte) : Address := word 0x00#8 l

/-- The stack location that the index `i` names, `$0100 + i` (20_memory.md R46). -/
def stackAddr (i : Byte) : Address := word 0x01#8 i

end Sys2Proof.Machine
end

