-- ==== Sys2Proof/Machine/Flags.lean ====
section
/-! DEFINITION. The eight flags of F and every flag computation: single-bit access (10_state.md R13), `WriteF` (R21),
`SetNZ` (R20, R24), the two arithmetic cores (45_compare_arith.md R170) and the rotations (47_shift_zero.md). -/

namespace Sys2Proof.Machine

/-- The flags, in the order of their bits in F (R13). -/
inductive Flag where
  | b | c | d | n | r | u | v | z
  deriving DecidableEq, Repr

/-- The bit of F a flag stands at, counted from 0 (R13). -/
def flagBit : Flag → Nat
  | .b => 0
  | .c => 1
  | .d => 2
  | .n => 3
  | .r => 4
  | .u => 5
  | .v => 6
  | .z => 7

/-- The mask of a flag in F (R13). -/
def flagMask : Flag → Byte
  | .b => 0x01#8
  | .c => 0x02#8
  | .d => 0x04#8
  | .n => 0x08#8
  | .r => 0x10#8
  | .u => 0x20#8
  | .v => 0x40#8
  | .z => 0x80#8

/-- Reads one flag of a status byte. -/
def getFlag (f : Byte) (fl : Flag) : Bool := f.getLsbD (flagBit fl)

/-- Writes one flag of a status byte, the others unchanged (00_scope.md R7). -/
def setFlag (f : Byte) (fl : Flag) (v : Bool) : Byte :=
  if v then f ||| flagMask fl else f &&& ~~~flagMask fl

/-- `WriteF`: what F becomes when the whole of it is written; bit 4, the R flag, stays 0 (R21). -/
def writeF (v : Byte) : Byte := v &&& 0xEF#8

/-- `SetNZ`: N is bit 7 of the result, Z says that the result is zero (R20, R24). -/
def setNZ (f r : Byte) : Byte := setFlag (setFlag f .n (r.getLsbD 7)) .z (r == 0x00#8)

/-- The outputs of an arithmetic core: the result byte and the four flag values (R170). -/
structure AluOut where
  r : Byte
  c : Bool
  v : Bool
  n : Bool
  z : Bool
  deriving DecidableEq, Repr

/-- `AddCore(a, m, cin)` (R170). -/
def addCore (a m : Byte) (cin : Bool) : AluOut :=
  let sum := a.toNat + m.toNat + cin.toNat
  let r := BitVec.ofNat 8 sum
  { r := r
    c := decide (255 < sum)
    v := a.getLsbD 7 == m.getLsbD 7 && r.getLsbD 7 != a.getLsbD 7
    n := r.getLsbD 7
    z := r == 0x00#8 }

/-- `SubCore(a, m, cin)` (R170): C by `SUB_CARRY` (D7), V the signed overflow of the difference (D8). -/
def subCore (a m : Byte) (cin : Bool) : AluOut :=
  let diff : Int := (a.toNat : Int) - (m.toNat : Int) - (1 - (cin.toNat : Int))
  let r := BitVec.ofInt 8 diff
  { r := r
    c := match Config.subCarry with
      | .noBorrow => decide (0 ≤ diff)
      | .borrow => decide (diff < 0)
    v := a.getLsbD 7 != m.getLsbD 7 && r.getLsbD 7 != a.getLsbD 7
    n := r.getLsbD 7
    z := r == 0x00#8 }

/-- Writes C, V, N and Z from an arithmetic core (R171, R174, R176). -/
def setCVNZ (f : Byte) (o : AluOut) : Byte :=
  setFlag (setFlag (setFlag (setFlag f .c o.c) .v o.v) .n o.n) .z o.z

/-- Rotates a byte left through the carry (R190): the new byte and the bit that left. -/
def rotateLeft (m : Byte) (cin : Bool) : Byte × Bool :=
  (BitVec.ofNat 8 (m.toNat * 2 % 256 + cin.toNat), m.getLsbD 7)

/-- Rotates a byte right through the carry (R191): the new byte and the bit that left. -/
def rotateRight (m : Byte) (cin : Bool) : Byte × Bool :=
  (BitVec.ofNat 8 (m.toNat / 2 + 128 * cin.toNat), m.getLsbD 0)

/-- Writes C from the bit shifted out, then N and Z from the result (R190 to R193). -/
def setShift (f : Byte) (o : Byte × Bool) : Byte := setNZ (setFlag f .c o.2) o.1

end Sys2Proof.Machine
end

