-- ==== Sys2Proof/Machine/State.lean ====
section
/-! DEFINITION. The state of the XL as plain data (10_state.md), the ways a step can stop, and the state the machine
starts from. -/

namespace Sys2Proof.Machine

/-- Memory as the bytes that something has defined, each with its address. An address that is not listed has not been
defined by the image placed in the machine or by a store: `Memory.read` draws its byte from `Config.memInit`. The
canonical form is `Memory.wf` (Machine/Ops.lean). -/
abbrev Memory := List Host.Cell

/-- The byte registers an instruction's result can go to (10_state.md R10), F apart. -/
inductive Reg where
  | a | s | x | y
  deriving DecidableEq, Repr

/-- The external requests that arrive in one iteration of the instruction cycle: any subset of RESET, REACT and
BREAK (60_exceptions.md R202). -/
structure ExtRequests where
  reset : Bool
  react : Bool
  brk : Bool
  deriving DecidableEq, Repr

/-- Why the machine stops with a fault. -/
inductive Fault where
  /-- Raised by `INV` alone, with its opcode and the address of that opcode: "The behavior of this instruction is
  implementation defined", and the spec's model raises `Fault(InvalidOpcode(op, ia))` (40_system.md R100). Safe: the
  model stops where an implementation might go on. -/
  | invalidOpcode (op : Byte) (ia : Address)
  deriving DecidableEq, Repr

/-- Why the model gives an instruction no meaning. -/
inductive Refusal where
  /-- Raised by an arm of `exec` whose instruction has no meaning yet. Safe. No arm raises it now. -/
  | notModelled (mnemonic : String)
  /-- Raised by `step` where the fetched opcode decodes to nothing: never with `OP48` as the spec decides it, and for
  `$48` alone where it is set to `refuse` (30_encoding.md R79). Safe. -/
  | undecodable (op : Byte)
  deriving DecidableEq, Repr

/-- The state of the machine. -/
structure State where
  /-- A, the accumulator (10_state.md R11). -/
  a : Byte
  /-- F, the status flags, whole; its bits are in Machine/Flags.lean (R12, R13). -/
  f : Byte
  /-- P, the program counter (R14). -/
  p : Address
  /-- S, the stack index (R15). -/
  s : Byte
  /-- X, an index register (R16). -/
  x : Byte
  /-- Y, an index register (R16). -/
  y : Byte
  /-- The 65536 bytes of memory (R27). -/
  mem : Memory
  /-- The hidden bit `req_reset` (R29). -/
  reqReset : Bool
  /-- The hidden bit `req_react` (R29). -/
  reqReact : Bool
  /-- The hidden bit `req_break_ext` (R29). -/
  reqBreakExt : Bool
  /-- The hidden bit `req_break_brk` (R29). -/
  reqBreakBrk : Bool
  /-- The environment's `IRQ_INPUT`: what each coming iteration takes in at its step 1, the next one first; after its
  end nothing is requested (60_exceptions.md R202, 92_eei_decisions.md D12). The model's own field, assumption log 3. -/
  irqInput : List ExtRequests
  /-- Ghost: the clock cycles spent so far (70_reset_and_hazards.md R237, R238). Nothing reads it. The model's own
  field, assumption log 4. -/
  cycles : Nat
  deriving DecidableEq, Repr

/-- The machine at power-on, before its first instruction: every register 0, `req_reset` set and the other request
bits clear (10_state.md R29, R30, R31; 70_reset_and_hazards.md R230), no byte of memory defined, no external request
to come. Its first step processes RESET, which loads P from the vector at `$FFFE`. Assumption log 1. -/
def State.reset : State where
  a := 0x00#8
  f := 0x00#8
  p := 0x0000#16
  s := 0x00#8
  x := 0x00#8
  y := 0x00#8
  mem := []
  reqReset := true
  reqReact := false
  reqBreakExt := false
  reqBreakBrk := false
  irqInput := []
  cycles := 0

/-- What a step or an instruction answers. -/
abbrev Result := Host.Outcome State Fault Refusal

end Sys2Proof.Machine
end

