-- ==== Sys2Proof/Machine/Ops.lean ====
section
/-! DEFINITION. The named operations over memory, registers and the stack (20_memory.md), and taking an interrupt and
returning from one (60_exceptions.md; 40_system.md R103). -/

namespace Sys2Proof.Machine

/-! ## Memory -/

/-- The canonical form of a memory: addresses strictly rising, each below 65536. An unlisted address reads as a free
byte, so no entry can be known to equal what an unlisted address reads as. -/
def Memory.wf : Memory → Bool
  | [] => true
  | [c] => decide (c.1 < 65536)
  | c :: d :: rest => decide (c.1 < d.1) && Memory.wf (d :: rest)

/-- The byte that has been defined at an address, if any. -/
def Memory.lookup : Memory → Nat → Option Byte
  | [], _ => none
  | c :: rest, k => if c.1 = k then some c.2 else Memory.lookup rest k

/-- `MemRead(a, 1)` (20_memory.md R50): the last byte stored at `a`, or the byte of the initial image. -/
def Memory.read (m : Memory) (a : Address) : Byte := (Memory.lookup m a.toNat).getD (Config.memInit a)

/-- Puts a byte at an address in the canonical form. -/
def Memory.insert : Memory → Nat → Byte → Memory
  | [], k, v => [(k, v)]
  | c :: rest, k, v =>
    if k < c.1 then (k, v) :: c :: rest
    else if k = c.1 then (k, v) :: rest
    else c :: Memory.insert rest k v

/-- `MemWrite(a, 1, v)` (R50). -/
def Memory.write (m : Memory) (a : Address) (v : Byte) : Memory := Memory.insert m a.toNat v

/-- The byte at an address of the machine's memory (R50). -/
def State.read (σ : State) (a : Address) : Byte := Memory.read σ.mem a

/-- The word at an address: LSB at `a`, MSB at the next address, modulo 65536 (R41, R44). -/
def State.readWord (σ : State) (a : Address) : Address := word (σ.read (a + 1#16)) (σ.read a)

/-- The word at a zero-page address: its MSB's address "cannot escape zero page" (R44; 30_encoding.md R73, R74). -/
def State.readZeroPageWord (σ : State) (z : Byte) : Address :=
  word (σ.read (zeroPage (z + 1#8))) (σ.read (zeroPage z))

/-- Stores a byte (R50). -/
def State.store (σ : State) (a : Address) (v : Byte) : State := { σ with mem := Memory.write σ.mem a v }

/-- Stores bytes at consecutive addresses, modulo 65536, from `a` on. -/
def State.storeBytes (σ : State) (a : Address) : List Byte → State
  | [] => σ
  | v :: rest => (σ.store a v).storeBytes (a + 1#16) rest

/-! ## Registers and flags -/

/-- Reads a byte register. -/
def State.reg (σ : State) : Reg → Byte
  | .a => σ.a
  | .s => σ.s
  | .x => σ.x
  | .y => σ.y

/-- Writes a byte register. -/
def State.setReg (σ : State) (r : Reg) (v : Byte) : State :=
  match r with
  | .a => { σ with a := v }
  | .s => { σ with s := v }
  | .x => { σ with x := v }
  | .y => { σ with y := v }

/-- Writes a byte register with an instruction's result, and N and Z from it (10_state.md R20, R24). -/
def State.setRegNZ (σ : State) (r : Reg) (v : Byte) : State := { σ.setReg r v with f := setNZ σ.f v }

/-- One flag of F. -/
def State.flag (σ : State) (fl : Flag) : Bool := getFlag σ.f fl

/-- Writes the whole of F through `WriteF` (10_state.md R21). -/
def State.putF (σ : State) (v : Byte) : State := { σ with f := writeF v }

/-! ## The stack -/

/-- `Push(v)`: writes at `$0100 + S`, then takes 1 from S modulo 256 (20_memory.md R47). -/
def State.push (σ : State) (v : Byte) : State := { σ.store (stackAddr σ.s) v with s := σ.s - 1#8 }

/-- The state after `Pull()`: S one higher modulo 256 (R48). -/
def State.dropTop (σ : State) : State := { σ with s := σ.s + 1#8 }

/-- The byte `Pull()` returns: the one at `$0100 + S` with the new S (R48). -/
def State.top (σ : State) : Byte := σ.read (stackAddr (σ.s + 1#8))

/-- Pushes a word, its MSB first, so that it lies little-endian in memory (R41; 42_jumps.md R138). -/
def State.pushWord (σ : State) (w : Address) : State := (σ.push (hi w)).push (lo w)

/-- Pulls the LSB and then the MSB of P (40_system.md R103, R104). -/
def State.pullP (σ : State) : State :=
  { σ.dropTop.dropTop with p := word σ.dropTop.top σ.top }

/-! ## Interrupts -/

/-- Takes in what `IRQ_INPUT` supplies for this iteration (60_exceptions.md R202, R203). -/
def State.takeInput (σ : State) : State :=
  match σ.irqInput with
  | [] => σ
  | e :: rest =>
    { σ with
      reqReset := σ.reqReset || e.reset
      reqReact := σ.reqReact || e.react
      reqBreakExt := σ.reqBreakExt || e.brk
      irqInput := rest }

/-- Clears all four request bits: at every step 1 each request is processed or ignored, and dropped (R203, D11). -/
def State.clearRequests (σ : State) : State :=
  { σ with reqReset := false, reqReact := false, reqBreakExt := false, reqBreakBrk := false }

/-- What step 1 does with the requests it finds. -/
inductive Selection where
  /-- Nothing is processed: nothing is requested, or only a BREAK that D masks (R204). -/
  | none
  | reset
  | react
  /-- BREAK, and whether the `BRK` instruction is among those who requested it (R215, D26). -/
  | brk (byBrk : Bool)
  deriving DecidableEq, Repr

/-- The interrupt that step 1 processes, by the requests taken in and by D (R203, R204). -/
def State.select (σ : State) : Selection :=
  if σ.reqReset then .reset
  else if σ.reqReact then .react
  else if (σ.reqBreakExt || σ.reqBreakBrk) && !σ.flag .d then .brk σ.reqBreakBrk
  else .none

/-- Where the address of the RESET handler is stored (R208). -/
def resetVector : Address := 0xFFFE#16

/-- Where the address of the REACT handler is stored (R208). -/
def reactVector : Address := 0xFFFC#16

/-- Where the address of the BREAK handler is stored (R208). -/
def breakVector : Address := 0xFFFA#16

/-- `ResetEntry()`: all six registers 0, then P from the RESET vector; nothing is pushed (R205); 2 cycles (R216). -/
def State.resetEntry (σ : State) : State :=
  { σ with
    a := 0x00#8, f := 0x00#8, s := 0x00#8, x := 0x00#8, y := 0x00#8
    p := σ.readWord resetVector
    cycles := σ.cycles + 2 }

/-- TAKING AN INTERRUPT, `InterruptEntry(vec, by_brk)` (R206): pushes P, MSB first, and F as it stands, then sets D, sets
B if `BRK` asked, and takes P from the vector bytes; 5 cycles (R216). -/
def State.interruptEntry (σ : State) (vec : Address) (byBrk : Bool) : State :=
  let τ := (σ.pushWord σ.p).push σ.f
  let f := setFlag σ.f .d true
  { τ with
    f := if byBrk then setFlag f .b true else f
    p := τ.readWord vec
    cycles := σ.cycles + 5 }

/-- RETURNING FROM AN INTERRUPT (R210; 40_system.md R103): pulls F, bit 4 forced to 0, then P. -/
def State.returnFromInterrupt (σ : State) : State := (σ.dropTop.putF σ.top).pullP

/-- `ProcessInterrupts()`, step 1 of the instruction cycle (R203): at most one interrupt is processed. -/
def State.processInterrupts (σ : State) : State :=
  let τ := σ.takeInput
  match τ.select with
  | .none => τ.clearRequests
  | .reset => τ.clearRequests.resetEntry
  | .react => τ.clearRequests.interruptEntry reactVector false
  | .brk byBrk => τ.clearRequests.interruptEntry breakVector byBrk

end Sys2Proof.Machine
end

