-- ==== Sys2Proof/Syntax.lean ====
section
/-! DEFINITION. The instructions of the XL as syntax (30_encoding.md R77: 78 instructions). A row of
spec/opcode_table.json is one mnemonic in one addressing mode: the mnemonic is the constructor of `Instr`, the
mode is the constructor of its `Operand` (an instruction with a single form carries its operand byte directly),
and the five rows of `INV` are `inv` at its five opcodes. Which modes a mnemonic has is WellFormed.lean. -/

namespace Sys2Proof

/-- The twelve addressing modes (30_encoding.md section 3). -/
inductive Mode where
  | nam | imm | abs | abx | aby | rel | zpg | zpx | zpy | vec | zvx | zyv
  deriving DecidableEq, Repr

/-- The operand bytes of an instruction with its addressing mode, NAM apart (which has none). Two operand bytes
stand as the address they form, the second byte of the instruction its LSB and the third its MSB (R65). -/
inductive Operand where
  /-- Immediate: the data byte itself (R64). -/
  | imm (b : Byte)
  /-- Absolute (R65). -/
  | abs (w : Address)
  /-- Absolute plus X (R66). -/
  | abx (w : Address)
  /-- Absolute plus Y (R67). -/
  | aby (w : Address)
  /-- Relative: a signed offset from the opcode's own address (R68). -/
  | rel (o : Byte)
  /-- Zero page (R69). -/
  | zpg (l : Byte)
  /-- Zero page plus X (R70). -/
  | zpx (l : Byte)
  /-- Zero page plus Y (R71). -/
  | zpy (l : Byte)
  /-- Vector: the address at which `addr` is stored (R72). -/
  | vec (w : Address)
  /-- Zero page vector plus X (R73). -/
  | zvx (z : Byte)
  /-- Zero page plus Y vector (R74). -/
  | zyv (z : Byte)
  deriving DecidableEq, Repr

/-- The addressing mode of an operand. -/
def Operand.mode : Operand → Mode
  | .imm _ => .imm
  | .abs _ => .abs
  | .abx _ => .abx
  | .aby _ => .aby
  | .rel _ => .rel
  | .zpg _ => .zpg
  | .zpx _ => .zpx
  | .zpy _ => .zpy
  | .vec _ => .vec
  | .zvx _ => .zvx
  | .zyv _ => .zyv

/-- The 78 instructions (30_encoding.md R77), in the order of that rule. -/
inductive Instr where
  -- system (40_system.md)
  /-- `INV`, with the opcode byte that decoded to it (`$00`, `$FC`-`$FF`; R81, R100). -/
  | inv (op : Byte)
  | nop
  | brk
  | rti
  | ret
  /-- `FOR`, IMM only (R105). -/
  | for_ (b : Byte)
  /-- `FND`, IMM only (R106). -/
  | fnd (b : Byte)
  -- increment and decrement (41_incdec.md)
  | app
  | amm
  | spp
  | smm
  | xpp
  | xmm
  | ypp
  | ymm
  | inc (m : Operand)
  | dec (m : Operand)
  -- control transfer (42_jumps.md); the conditional jumps are REL only (R120)
  | jfb (o : Byte)
  | jfc (o : Byte)
  | jfd (o : Byte)
  | jfn (o : Byte)
  | jfr (o : Byte)
  | jfu (o : Byte)
  | jfv (o : Byte)
  | jfz (o : Byte)
  | jtb (o : Byte)
  | jtc (o : Byte)
  | jtd (o : Byte)
  | jtn (o : Byte)
  | jtr (o : Byte)
  | jtu (o : Byte)
  | jtv (o : Byte)
  | jtz (o : Byte)
  | jmp (m : Operand)
  | cal (m : Operand)
  | clc
  -- loads and stores (43_load_store.md)
  | lda (m : Operand)
  | ldx (m : Operand)
  | ldy (m : Operand)
  | sta (m : Operand)
  | stx (m : Operand)
  | sty (m : Operand)
  -- push, pull and transfer (44_stack_transfer.md)
  | pha
  | phf
  | phx
  | phy
  | pla
  | plf
  | plx
  | ply
  | taf
  | tas
  | tax
  | tay
  | tfa
  | tsa
  | txa
  | tya
  -- compare and arithmetic (45_compare_arith.md)
  | cmp (m : Operand)
  | cpx (m : Operand)
  | cpy (m : Operand)
  | sbc (m : Operand)
  | sub (m : Operand)
  | adc (m : Operand)
  | add (m : Operand)
  -- logic (46_logic.md)
  | bor (m : Operand)
  | xor (m : Operand)
  | and (m : Operand)
  | bit (m : Operand)
  | not (m : Operand)
  | nta
  -- shifts and zeroing (47_shift_zero.md)
  | shl (m : Operand)
  | shr (m : Operand)
  | sla
  | sra
  | zra
  | zrx
  | zry
  deriving DecidableEq, Repr

end Sys2Proof
end

