-- ==== Sys2Proof/Machine/Operands.lean ====
section
/-! DEFINITION. The addressing modes (30_encoding.md R63 to R74). They run in a state whose P already stands past the
instruction, `ia + size` (R75), so the address `ia` of the opcode byte is P less the size of the form. -/

namespace Sys2Proof.Machine

/-- `addr`, the address an addressing mode produces. -/
def addrOf (σ : State) : Operand → Address
  | .imm _ => σ.p - 1#16                                -- R64: `ia + 1`, size 2
  | .abs w => w                                         -- R65
  | .abx w => w + zext16 σ.x                            -- R66
  | .aby w => w + zext16 σ.y                            -- R67
  | .rel o => σ.p - 2#16 + sext16 o                     -- R68: from `ia`, size 2
  | .zpg l => zeroPage l                                -- R69
  | .zpx l => zeroPage (l + σ.x)                        -- R70
  | .zpy l => zeroPage (l + σ.y)                        -- R71
  | .vec w => σ.readWord w                              -- R72
  | .zvx z => σ.readZeroPageWord z + zext16 σ.x         -- R73: X added after the pointer is read
  | .zyv z => σ.readZeroPageWord (z + σ.y)              -- R74: Y added before it is read

/-- The byte at `addr`, `MemRead(addr, 1)`. In mode IMM that is the operand byte itself, the second byte of the
instruction (R64), which the decoded instruction carries. -/
def dataOf (σ : State) : Operand → Byte
  | .imm b => b
  | m => σ.read (addrOf σ m)

/-- Reads the byte at `addr`, stores what `g` makes of it back, and sets N and Z from that (20_memory.md R43, R51:
one read, then one write of the same address). -/
def State.modify (σ : State) (m : Operand) (g : Byte → Byte) : State :=
  { σ.store (addrOf σ m) (g (dataOf σ m)) with f := setNZ σ.f (g (dataOf σ m)) }

/-- Takes the address of mode REL where the condition holds; P otherwise stays at the next instruction (42_jumps.md R120). -/
def State.jumpIf (σ : State) (cond : Bool) (o : Byte) : State :=
  if cond then { σ with p := addrOf σ (.rel o) } else σ

end Sys2Proof.Machine
end

