-- ==== Sys2Proof/Machine/Arith.lean ====
section
/-! DEFINITION. Compare and arithmetic (45_compare_arith.md R170 to R177); the two cores are in Machine/Flags.lean. -/

namespace Sys2Proof.Machine

/-- Compares a register's byte with the byte at `addr`: A, X or Y less that byte with no borrow in, the result dropped
(R171, D9). -/
def State.compare (σ : State) (r : Byte) (m : Operand) : State :=
  { σ with f := setCVNZ σ.f (subCore r (dataOf σ m) true) }

/-- Leaves an arithmetic core's result in A and its flags in F (R174, R176). -/
def State.putAlu (σ : State) (o : AluOut) : State := { σ with a := o.r, f := setCVNZ σ.f o }

/-- `CMP` (R171). -/
def execCmp (m : Operand) (σ : State) : Result := .next (σ.compare σ.a m)

/-- `CPX` (R172). -/
def execCpx (m : Operand) (σ : State) : Result := .next (σ.compare σ.x m)

/-- `CPY` (R173). -/
def execCpy (m : Operand) (σ : State) : Result := .next (σ.compare σ.y m)

/-- `SBC` (R174). -/
def execSbc (m : Operand) (σ : State) : Result := .next (σ.putAlu (subCore σ.a (dataOf σ m) (σ.flag .c)))

/-- `SUB` (R175): the incoming C is ignored. -/
def execSub (m : Operand) (σ : State) : Result := .next (σ.putAlu (subCore σ.a (dataOf σ m) true))

/-- `ADC` (R176). -/
def execAdc (m : Operand) (σ : State) : Result := .next (σ.putAlu (addCore σ.a (dataOf σ m) (σ.flag .c)))

/-- `ADD` (R177): the incoming C is ignored. -/
def execAdd (m : Operand) (σ : State) : Result := .next (σ.putAlu (addCore σ.a (dataOf σ m) false))

end Sys2Proof.Machine
end

