-- ==== Sys2Proof/Machine/IncDec.lean ====
section
/-! DEFINITION. Increment and decrement (41_incdec.md R110 to R119): modulo 256, N and Z from the result, C and V
untouched. -/

namespace Sys2Proof.Machine

/-- `APP` (R110): increments A. -/
def execApp (σ : State) : Result := .next (σ.setRegNZ .a (σ.a + 1#8))

/-- `AMM` (R111): decrements A. -/
def execAmm (σ : State) : Result := .next (σ.setRegNZ .a (σ.a - 1#8))

/-- `SPP` (R112): increments S. -/
def execSpp (σ : State) : Result := .next (σ.setRegNZ .s (σ.s + 1#8))

/-- `SMM` (R113): decrements S. -/
def execSmm (σ : State) : Result := .next (σ.setRegNZ .s (σ.s - 1#8))

/-- `XPP` (R114): increments X. -/
def execXpp (σ : State) : Result := .next (σ.setRegNZ .x (σ.x + 1#8))

/-- `XMM` (R115): decrements X. -/
def execXmm (σ : State) : Result := .next (σ.setRegNZ .x (σ.x - 1#8))

/-- `YPP` (R116): increments Y. -/
def execYpp (σ : State) : Result := .next (σ.setRegNZ .y (σ.y + 1#8))

/-- `YMM` (R117): decrements Y. -/
def execYmm (σ : State) : Result := .next (σ.setRegNZ .y (σ.y - 1#8))

/-- `INC` (R118): increments the byte at `addr`. -/
def execInc (m : Operand) (σ : State) : Result := .next (σ.modify m (· + 1#8))

/-- `DEC` (R119): decrements the byte at `addr`. -/
def execDec (m : Operand) (σ : State) : Result := .next (σ.modify m (· - 1#8))

end Sys2Proof.Machine
end

