-- ==== Sys2Proof/Machine/Jumps.lean ====
section
/-! DEFINITION. Control transfer and CLC (42_jumps.md R120 to R139). -/

namespace Sys2Proof.Machine

/-- `JFB` (R121): jumps if the B flag is 0. -/
def execJfb (o : Byte) (σ : State) : Result := .next (σ.jumpIf (!σ.flag .b) o)

/-- `JFC` (R122): jumps if the C flag is 0. -/
def execJfc (o : Byte) (σ : State) : Result := .next (σ.jumpIf (!σ.flag .c) o)

/-- `JFD` (R123): jumps if the D flag is 0. -/
def execJfd (o : Byte) (σ : State) : Result := .next (σ.jumpIf (!σ.flag .d) o)

/-- `JFN` (R124): jumps if the N flag is 0. -/
def execJfn (o : Byte) (σ : State) : Result := .next (σ.jumpIf (!σ.flag .n) o)

/-- `JFR` (R125): jumps if the R flag is 0. -/
def execJfr (o : Byte) (σ : State) : Result := .next (σ.jumpIf (!σ.flag .r) o)

/-- `JFU` (R126): jumps if the U flag is 0. -/
def execJfu (o : Byte) (σ : State) : Result := .next (σ.jumpIf (!σ.flag .u) o)

/-- `JFV` (R127): jumps if the V flag is 0. -/
def execJfv (o : Byte) (σ : State) : Result := .next (σ.jumpIf (!σ.flag .v) o)

/-- `JFZ` (R128): jumps if the Z flag is 0. -/
def execJfz (o : Byte) (σ : State) : Result := .next (σ.jumpIf (!σ.flag .z) o)

/-- `JTB` (R129): jumps if the B flag is 1. -/
def execJtb (o : Byte) (σ : State) : Result := .next (σ.jumpIf (σ.flag .b) o)

/-- `JTC` (R130): jumps if the C flag is 1. -/
def execJtc (o : Byte) (σ : State) : Result := .next (σ.jumpIf (σ.flag .c) o)

/-- `JTD` (R131): jumps if the D flag is 1. -/
def execJtd (o : Byte) (σ : State) : Result := .next (σ.jumpIf (σ.flag .d) o)

/-- `JTN` (R132): jumps if the N flag is 1. -/
def execJtn (o : Byte) (σ : State) : Result := .next (σ.jumpIf (σ.flag .n) o)

/-- `JTR` (R133): jumps if the R flag is 1. -/
def execJtr (o : Byte) (σ : State) : Result := .next (σ.jumpIf (σ.flag .r) o)

/-- `JTU` (R134): jumps if the U flag is 1. -/
def execJtu (o : Byte) (σ : State) : Result := .next (σ.jumpIf (σ.flag .u) o)

/-- `JTV` (R135): jumps if the V flag is 1. -/
def execJtv (o : Byte) (σ : State) : Result := .next (σ.jumpIf (σ.flag .v) o)

/-- `JTZ` (R136): jumps if the Z flag is 1. -/
def execJtz (o : Byte) (σ : State) : Result := .next (σ.jumpIf (σ.flag .z) o)

/-- `JMP` (R137): P becomes the address the mode computed; memory there is not read. -/
def execJmp (m : Operand) (σ : State) : Result := .next { σ with p := addrOf σ m }

/-- `CAL` (R138): pushes the address of the next instruction, which P holds (R75), and jumps; the mode is complete before
the pushes (20_memory.md R51). -/
def execCal (m : Operand) (σ : State) : Result := .next { σ.pushWord σ.p with p := addrOf σ m }

/-- `CLC` (R139): sets C to 0. -/
def execClc (σ : State) : Result := .next { σ with f := setFlag σ.f .c false }

end Sys2Proof.Machine
end

