-- ==== Sys2Proof/Machine/LoadStore.lean ====
section
/-! DEFINITION. Loads and stores (43_load_store.md R140 to R145). -/

namespace Sys2Proof.Machine

/-- `LDA` (R140). -/
def execLda (m : Operand) (σ : State) : Result := .next (σ.setRegNZ .a (dataOf σ m))

/-- `LDX` (R141). -/
def execLdx (m : Operand) (σ : State) : Result := .next (σ.setRegNZ .x (dataOf σ m))

/-- `LDY` (R142). -/
def execLdy (m : Operand) (σ : State) : Result := .next (σ.setRegNZ .y (dataOf σ m))

/-- `STA` (R143): no flag. -/
def execSta (m : Operand) (σ : State) : Result := .next (σ.store (addrOf σ m) σ.a)

/-- `STX` (R144): no flag. -/
def execStx (m : Operand) (σ : State) : Result := .next (σ.store (addrOf σ m) σ.x)

/-- `STY` (R145): no flag. -/
def execSty (m : Operand) (σ : State) : Result := .next (σ.store (addrOf σ m) σ.y)

end Sys2Proof.Machine
end

