-- ==== Sys2Proof/Machine/Logic.lean ====
section
/-! DEFINITION. Bitwise logic (46_logic.md R180 to R185): N and Z alone. -/

namespace Sys2Proof.Machine

/-- `BOR` (R180). -/
def execBor (m : Operand) (σ : State) : Result := .next (σ.setRegNZ .a (σ.a ||| dataOf σ m))

/-- `XOR` (R181). -/
def execXor (m : Operand) (σ : State) : Result := .next (σ.setRegNZ .a (σ.a ^^^ dataOf σ m))

/-- `AND` (R182). -/
def execAnd (m : Operand) (σ : State) : Result := .next (σ.setRegNZ .a (σ.a &&& dataOf σ m))

/-- `BIT` (R183): as `AND`, but the result is not stored. -/
def execBit (m : Operand) (σ : State) : Result := .next { σ with f := setNZ σ.f (σ.a &&& dataOf σ m) }

/-- `NOT` (R184): inverts the byte at `addr`. -/
def execNot (m : Operand) (σ : State) : Result := .next (σ.modify m (· ^^^ 0xFF#8))

/-- `NTA` (R185): inverts A. -/
def execNta (σ : State) : Result := .next (σ.setRegNZ .a (σ.a ^^^ 0xFF#8))

end Sys2Proof.Machine
end

