-- ==== Sys2Proof/Machine/Shift.lean ====
section
/-! DEFINITION. Rotations through the carry and zeroing (47_shift_zero.md R190 to R196). -/

namespace Sys2Proof.Machine

/-- Stores a rotated byte back at `addr`, and writes C, N and Z (R190, R191). -/
def State.rotateMem (σ : State) (m : Operand) (o : Byte × Bool) : State :=
  { σ.store (addrOf σ m) o.1 with f := setShift σ.f o }

/-- Leaves a rotated byte in A, and writes C, N and Z (R192, R193). -/
def State.rotateA (σ : State) (o : Byte × Bool) : State := { σ with a := o.1, f := setShift σ.f o }

/-- `SHL` (R190). -/
def execShl (m : Operand) (σ : State) : Result := .next (σ.rotateMem m (rotateLeft (dataOf σ m) (σ.flag .c)))

/-- `SHR` (R191). -/
def execShr (m : Operand) (σ : State) : Result := .next (σ.rotateMem m (rotateRight (dataOf σ m) (σ.flag .c)))

/-- `SLA` (R192). -/
def execSla (σ : State) : Result := .next (σ.rotateA (rotateLeft σ.a (σ.flag .c)))

/-- `SRA` (R193). -/
def execSra (σ : State) : Result := .next (σ.rotateA (rotateRight σ.a (σ.flag .c)))

/-- `ZRA` (R194). -/
def execZra (σ : State) : Result := .next (σ.setRegNZ .a 0x00#8)

/-- `ZRX` (R195). -/
def execZrx (σ : State) : Result := .next (σ.setRegNZ .x 0x00#8)

/-- `ZRY` (R196). -/
def execZry (σ : State) : Result := .next (σ.setRegNZ .y 0x00#8)

end Sys2Proof.Machine
end

