-- ==== Sys2Proof/Machine/StackTransfer.lean ====
section
/-! DEFINITION. Push, pull and register transfer (44_stack_transfer.md R150 to R165). -/

namespace Sys2Proof.Machine

/-- `PHA` (R150): no flag. -/
def execPha (σ : State) : Result := .next (σ.push σ.a)

/-- `PHF` (R151): no flag; F is pushed as it stands. -/
def execPhf (σ : State) : Result := .next (σ.push σ.f)

/-- `PHX` (R152): no flag. -/
def execPhx (σ : State) : Result := .next (σ.push σ.x)

/-- `PHY` (R153): no flag. -/
def execPhy (σ : State) : Result := .next (σ.push σ.y)

/-- `PLA` (R154). -/
def execPla (σ : State) : Result := .next (σ.dropTop.setRegNZ .a σ.top)

/-- `PLF` (R155): the whole of F, bit 4 forced to 0. -/
def execPlf (σ : State) : Result := .next (σ.dropTop.putF σ.top)

/-- `PLX` (R156). -/
def execPlx (σ : State) : Result := .next (σ.dropTop.setRegNZ .x σ.top)

/-- `PLY` (R157). -/
def execPly (σ : State) : Result := .next (σ.dropTop.setRegNZ .y σ.top)

/-- `TAF` (R158): the whole of F, bit 4 forced to 0. -/
def execTaf (σ : State) : Result := .next (σ.putF σ.a)

/-- `TAS` (R159). -/
def execTas (σ : State) : Result := .next (σ.setRegNZ .s σ.a)

/-- `TAX` (R160). -/
def execTax (σ : State) : Result := .next (σ.setRegNZ .x σ.a)

/-- `TAY` (R161). -/
def execTay (σ : State) : Result := .next (σ.setRegNZ .y σ.a)

/-- `TFA` (R162): A receives the old F; N and Z are then set from that value. -/
def execTfa (σ : State) : Result := .next (σ.setRegNZ .a σ.f)

/-- `TSA` (R163). -/
def execTsa (σ : State) : Result := .next (σ.setRegNZ .a σ.s)

/-- `TXA` (R164). -/
def execTxa (σ : State) : Result := .next (σ.setRegNZ .a σ.x)

/-- `TYA` (R165). -/
def execTya (σ : State) : Result := .next (σ.setRegNZ .a σ.y)

end Sys2Proof.Machine
end

