-- ==== Sys2Proof/Machine/System.lean ====
section
/-! DEFINITION. The system instructions INV, NOP, BRK, RTI, RET, FOR, FND (40_system.md R100 to R106). As in every
family file, a meaning is step 5 of the instruction cycle: P already stands past the instruction (30_encoding.md R75). -/

namespace Sys2Proof.Machine

/-- `INV` (R100): the behaviour is implementation defined, and the spec's model faults with the opcode and its address. -/
def execInv (op : Byte) (σ : State) : Result := .fault (.invalidOpcode op (σ.p - 1#16))

/-- `NOP` (R101): "does nothing". -/
def execNop (σ : State) : Result := .next σ

/-- `BRK` (R102): sets the hidden request; the entry is step 1 of the next cycle. -/
def execBrk (σ : State) : Result := .next { σ with reqBreakBrk := true }

/-- `RTI` (R103). -/
def execRti (σ : State) : Result := .next σ.returnFromInterrupt

/-- `RET` (R104): the pulled word is P, with no adjustment. -/
def execRet (σ : State) : Result := .next σ.pullP

/-- `FOR` (R105). -/
def execFor (b : Byte) (σ : State) : Result := .next (σ.putF (σ.f ||| dataOf σ (.imm b)))

/-- `FND` (R106). -/
def execFnd (b : Byte) (σ : State) : Result := .next (σ.putF (σ.f &&& dataOf σ (.imm b)))

end Sys2Proof.Machine
end

