-- ==== Sys2Proof/Machine/Dispatch.lean ====
section
/-! DEFINITION. Step 5 of the instruction cycle (30_encoding.md R61): the meaning of each instruction. -/

namespace Sys2Proof.Machine

def exec (i : Instr) (s : State) : Host.Outcome State Fault Refusal :=
  match i with
  | .inv op => Sys2Proof.Machine.execInv op s
  | .nop => Sys2Proof.Machine.execNop s
  | .brk => Sys2Proof.Machine.execBrk s
  | .rti => Sys2Proof.Machine.execRti s
  | .ret => Sys2Proof.Machine.execRet s
  | .for_ b => Sys2Proof.Machine.execFor b s
  | .fnd b => Sys2Proof.Machine.execFnd b s
  | .app => Sys2Proof.Machine.execApp s
  | .amm => Sys2Proof.Machine.execAmm s
  | .spp => Sys2Proof.Machine.execSpp s
  | .smm => Sys2Proof.Machine.execSmm s
  | .xpp => Sys2Proof.Machine.execXpp s
  | .xmm => Sys2Proof.Machine.execXmm s
  | .ypp => Sys2Proof.Machine.execYpp s
  | .ymm => Sys2Proof.Machine.execYmm s
  | .inc m => Sys2Proof.Machine.execInc m s
  | .dec m => Sys2Proof.Machine.execDec m s
  | .jfb o => Sys2Proof.Machine.execJfb o s
  | .jfc o => Sys2Proof.Machine.execJfc o s
  | .jfd o => Sys2Proof.Machine.execJfd o s
  | .jfn o => Sys2Proof.Machine.execJfn o s
  | .jfr o => Sys2Proof.Machine.execJfr o s
  | .jfu o => Sys2Proof.Machine.execJfu o s
  | .jfv o => Sys2Proof.Machine.execJfv o s
  | .jfz o => Sys2Proof.Machine.execJfz o s
  | .jtb o => Sys2Proof.Machine.execJtb o s
  | .jtc o => Sys2Proof.Machine.execJtc o s
  | .jtd o => Sys2Proof.Machine.execJtd o s
  | .jtn o => Sys2Proof.Machine.execJtn o s
  | .jtr o => Sys2Proof.Machine.execJtr o s
  | .jtu o => Sys2Proof.Machine.execJtu o s
  | .jtv o => Sys2Proof.Machine.execJtv o s
  | .jtz o => Sys2Proof.Machine.execJtz o s
  | .jmp m => Sys2Proof.Machine.execJmp m s
  | .cal m => Sys2Proof.Machine.execCal m s
  | .clc => Sys2Proof.Machine.execClc s
  | .lda m => Sys2Proof.Machine.execLda m s
  | .ldx m => Sys2Proof.Machine.execLdx m s
  | .ldy m => Sys2Proof.Machine.execLdy m s
  | .sta m => Sys2Proof.Machine.execSta m s
  | .stx m => Sys2Proof.Machine.execStx m s
  | .sty m => Sys2Proof.Machine.execSty m s
  | .pha => Sys2Proof.Machine.execPha s
  | .phf => Sys2Proof.Machine.execPhf s
  | .phx => Sys2Proof.Machine.execPhx s
  | .phy => Sys2Proof.Machine.execPhy s
  | .pla => Sys2Proof.Machine.execPla s
  | .plf => Sys2Proof.Machine.execPlf s
  | .plx => Sys2Proof.Machine.execPlx s
  | .ply => Sys2Proof.Machine.execPly s
  | .taf => Sys2Proof.Machine.execTaf s
  | .tas => Sys2Proof.Machine.execTas s
  | .tax => Sys2Proof.Machine.execTax s
  | .tay => Sys2Proof.Machine.execTay s
  | .tfa => Sys2Proof.Machine.execTfa s
  | .tsa => Sys2Proof.Machine.execTsa s
  | .txa => Sys2Proof.Machine.execTxa s
  | .tya => Sys2Proof.Machine.execTya s
  | .cmp m => Sys2Proof.Machine.execCmp m s
  | .cpx m => Sys2Proof.Machine.execCpx m s
  | .cpy m => Sys2Proof.Machine.execCpy m s
  | .sbc m => Sys2Proof.Machine.execSbc m s
  | .sub m => Sys2Proof.Machine.execSub m s
  | .adc m => Sys2Proof.Machine.execAdc m s
  | .add m => Sys2Proof.Machine.execAdd m s
  | .bor m => Sys2Proof.Machine.execBor m s
  | .xor m => Sys2Proof.Machine.execXor m s
  | .and m => Sys2Proof.Machine.execAnd m s
  | .bit m => Sys2Proof.Machine.execBit m s
  | .not m => Sys2Proof.Machine.execNot m s
  | .nta => Sys2Proof.Machine.execNta s
  | .shl m => Sys2Proof.Machine.execShl m s
  | .shr m => Sys2Proof.Machine.execShr m s
  | .sla => Sys2Proof.Machine.execSla s
  | .sra => Sys2Proof.Machine.execSra s
  | .zra => Sys2Proof.Machine.execZra s
  | .zrx => Sys2Proof.Machine.execZrx s
  | .zry => Sys2Proof.Machine.execZry s

end Sys2Proof.Machine
end

