-- ==== Sys2Proof/WellFormed.lean ====
section
/-! DEFINITION. Which instructions exist: the addressing modes each mnemonic has (30_encoding.md R77: "An empty
cell means the instruction does not exist in that mode") and the five opcodes of `INV` (R81). -/

namespace Sys2Proof

/-- The modes of the reading accumulator instructions `LDA CMP SBC SUB ADC ADD BOR XOR AND BIT` (R77). -/
def Mode.readA : List Mode := [.imm, .abs, .abx, .aby, .zpg, .zpx, .zpy, .vec, .zvx, .zyv]

/-- The modes of `LDX` and `CPX`: indexed by Y only (R77). -/
def Mode.readX : List Mode := [.imm, .abs, .aby, .zpg, .zpy, .vec, .zyv]

/-- The modes of `LDY` and `CPY`: indexed by X only (R77). -/
def Mode.readY : List Mode := [.imm, .abs, .abx, .zpg, .zpx, .vec, .zvx]

/-- The modes of `STA INC DEC CAL`: no IMM, no REL (R77). -/
def Mode.inMemory : List Mode := [.abs, .abx, .aby, .zpg, .zpx, .zpy, .vec, .zvx, .zyv]

/-- The modes of `STX` (R77). -/
def Mode.storeX : List Mode := [.abs, .aby, .zpg, .zpy, .vec, .zyv]

/-- The modes of `STY` (R77). -/
def Mode.storeY : List Mode := [.abs, .abx, .zpg, .zpx, .vec, .zvx]

/-- The modes of `JMP`: those of `CAL`, and REL (R77). -/
def Mode.jump : List Mode := .rel :: Mode.inMemory

/-- The modes of `NOT SHL SHR` (R77). -/
def Mode.modify : List Mode := [.abs, .abx, .zpg, .zpx]

/-- The five opcodes of `INV` (R81). -/
def invOpcodes : List Byte := [0x00#8, 0xFC#8, 0xFD#8, 0xFE#8, 0xFF#8]

/-- The instruction is one that the opcode map of R77 and R78 has. -/
def Instr.wf : Instr → Bool
  | .inv op => decide (op ∈ invOpcodes)
  | .nop | .brk | .rti | .ret | .for_ _ | .fnd _ => true
  | .app | .amm | .spp | .smm | .xpp | .xmm | .ypp | .ymm => true
  | .inc m | .dec m => decide (m.mode ∈ Mode.inMemory)
  | .jfb _ | .jfc _ | .jfd _ | .jfn _ | .jfr _ | .jfu _ | .jfv _ | .jfz _ => true
  | .jtb _ | .jtc _ | .jtd _ | .jtn _ | .jtr _ | .jtu _ | .jtv _ | .jtz _ => true
  | .jmp m => decide (m.mode ∈ Mode.jump)
  | .cal m => decide (m.mode ∈ Mode.inMemory)
  | .clc => true
  | .lda m => decide (m.mode ∈ Mode.readA)
  | .ldx m => decide (m.mode ∈ Mode.readX)
  | .ldy m => decide (m.mode ∈ Mode.readY)
  | .sta m => decide (m.mode ∈ Mode.inMemory)
  | .stx m => decide (m.mode ∈ Mode.storeX)
  | .sty m => decide (m.mode ∈ Mode.storeY)
  | .pha | .phf | .phx | .phy | .pla | .plf | .plx | .ply => true
  | .taf | .tas | .tax | .tay | .tfa | .tsa | .txa | .tya => true
  | .cmp m => decide (m.mode ∈ Mode.readA)
  | .cpx m => decide (m.mode ∈ Mode.readX)
  | .cpy m => decide (m.mode ∈ Mode.readY)
  | .sbc m | .sub m | .adc m | .add m => decide (m.mode ∈ Mode.readA)
  | .bor m | .xor m | .and m | .bit m => decide (m.mode ∈ Mode.readA)
  | .not m => decide (m.mode ∈ Mode.modify)
  | .nta => true
  | .shl m | .shr m => decide (m.mode ∈ Mode.modify)
  | .sla | .sra | .zra | .zrx => true
  | .zry => decide (Config.op48 = .zry)

end Sys2Proof
end

