-- ==== Sys2Proof/Decode.lean ====
section
/-! DEFINITION. The decoder and the encoder. The decoder is the opcode map of 30_encoding.md R78 cell by cell, a
column (the high digit of the opcode) at a time: "a decoder must use the full 256-entry table" (R60). The encoder,
after it, is written from the other table of that file, R77, mnemonic by mnemonic. -/

namespace Sys2Proof

open Sys2Proof.Machine (word lo hi)

/-- Why a list of bytes is no instruction. -/
inductive DecodeError where
  /-- There is no byte at all. -/
  | noBytes
  /-- The opcode asks for more operand bytes than the list has (R82). -/
  | truncated (op : Byte)
  /-- The opcode is given no meaning: only `$48`, and only where `OP48` is `refuse` (R79). -/
  | unassigned (op : Byte)
  deriving DecidableEq, Repr

/-- The instruction size of each addressing mode, in bytes (R82). -/
def modeSize : Mode → Nat
  | .nam => 1
  | .imm | .rel | .zpg | .zpx | .zpy | .zvx | .zyv => 2
  | .abs | .abx | .aby | .vec => 3

/-- The addressing mode of an instruction: NAM where it has no operand byte (R63, R77). -/
def instrMode : Instr → Mode
  | .inv _ | .nop | .brk | .rti | .ret => .nam
  | .for_ _ | .fnd _ => .imm
  | .app | .amm | .spp | .smm | .xpp | .xmm | .ypp | .ymm => .nam
  | .inc m | .dec m => m.mode
  | .jfb _ | .jfc _ | .jfd _ | .jfn _ | .jfr _ | .jfu _ | .jfv _ | .jfz _ => .rel
  | .jtb _ | .jtc _ | .jtd _ | .jtn _ | .jtr _ | .jtu _ | .jtv _ | .jtz _ => .rel
  | .jmp m | .cal m => m.mode
  | .clc => .nam
  | .lda m | .ldx m | .ldy m | .sta m | .stx m | .sty m => m.mode
  | .pha | .phf | .phx | .phy | .pla | .plf | .plx | .ply => .nam
  | .taf | .tas | .tax | .tay | .tfa | .tsa | .txa | .tya => .nam
  | .cmp m | .cpx m | .cpy m | .sbc m | .sub m | .adc m | .add m => m.mode
  | .bor m | .xor m | .and m | .bit m | .not m => m.mode
  | .nta => .nam
  | .shl m | .shr m => m.mode
  | .sla | .sra | .zra | .zrx | .zry => .nam

/-- The instruction size in bytes: a function of the addressing mode alone (R82). -/
def instrSize (i : Instr) : Nat := modeSize (instrMode i)

/-! The opcode map: `b` is the second byte of the instruction, `w` the address that the second byte (its LSB) and
the third (its MSB) form, and the number matched on is the low digit of the opcode. -/

/-- Column `$0_` of the opcode map (R78). -/
def column0 (b : Byte) (_w : Address) : Nat → Option Instr
  | 0x0 => some (.inv 0x00#8)
  | 0x1 => some .brk
  | 0x2 => some .rti
  | 0x3 => some .ret
  | 0x4 => some (.for_ b)
  | 0x5 => some (.fnd b)
  | 0x6 => some .clc
  | 0x7 => some .nop
  | 0x8 => some .app
  | 0x9 => some .amm
  | 0xA => some .spp
  | 0xB => some .smm
  | 0xC => some .xpp
  | 0xD => some .xmm
  | 0xE => some .ypp
  | 0xF => some .ymm
  | _ => none

/-- Column `$1_` of the opcode map (R78). -/
def column1 (b : Byte) (_w : Address) : Nat → Option Instr
  | 0x0 => some (.jfb b)
  | 0x1 => some (.jfc b)
  | 0x2 => some (.jfd b)
  | 0x3 => some (.jfn b)
  | 0x4 => some (.jfr b)
  | 0x5 => some (.jfu b)
  | 0x6 => some (.jfv b)
  | 0x7 => some (.jfz b)
  | 0x8 => some (.jtb b)
  | 0x9 => some (.jtc b)
  | 0xA => some (.jtd b)
  | 0xB => some (.jtn b)
  | 0xC => some (.jtr b)
  | 0xD => some (.jtu b)
  | 0xE => some (.jtv b)
  | 0xF => some (.jtz b)
  | _ => none

/-- Column `$2_` of the opcode map (R78). -/
def column2 (_b : Byte) (_w : Address) : Nat → Option Instr
  | 0x0 => some .pha
  | 0x1 => some .phf
  | 0x2 => some .phx
  | 0x3 => some .phy
  | 0x4 => some .pla
  | 0x5 => some .plf
  | 0x6 => some .plx
  | 0x7 => some .ply
  | 0x8 => some .taf
  | 0x9 => some .tas
  | 0xA => some .tax
  | 0xB => some .tay
  | 0xC => some .tfa
  | 0xD => some .tsa
  | 0xE => some .txa
  | 0xF => some .tya
  | _ => none

/-- Column `$3_` of the opcode map (R78). -/
def column3 (b : Byte) (w : Address) : Nat → Option Instr
  | 0x0 => some (.lda (.imm b))
  | 0x1 => some (.lda (.abs w))
  | 0x2 => some (.lda (.zpg b))
  | 0x3 => some (.lda (.vec w))
  | 0x4 => some (.lda (.abx w))
  | 0x5 => some (.lda (.aby w))
  | 0x6 => some (.lda (.zpx b))
  | 0x7 => some (.lda (.zpy b))
  | 0x8 => some .zra
  | 0x9 => some (.sta (.abs w))
  | 0xA => some (.sta (.zpg b))
  | 0xB => some (.sta (.vec w))
  | 0xC => some (.sta (.abx w))
  | 0xD => some (.sta (.aby w))
  | 0xE => some (.sta (.zpx b))
  | 0xF => some (.sta (.zpy b))
  | _ => none

/-- Column `$4_` of the opcode map (R78). -/
def column4 (b : Byte) (w : Address) : Nat → Option Instr
  | 0x0 => some .zrx
  | 0x1 => some (.ldx (.imm b))
  | 0x2 => some (.ldx (.abs w))
  | 0x3 => some (.ldx (.aby w))
  | 0x4 => some (.ldx (.zpg b))
  | 0x5 => some (.ldx (.zpy b))
  | 0x6 => some (.ldx (.vec w))
  | 0x7 => some (.ldx (.zyv b))
  | 0x8 => match Config.op48 with
    | .zry => some .zry
    | .zrx => some .zrx
    | .refuse => none
  | 0x9 => some (.ldy (.imm b))
  | 0xA => some (.ldy (.abs w))
  | 0xB => some (.ldy (.abx w))
  | 0xC => some (.ldy (.zpg b))
  | 0xD => some (.ldy (.zpx b))
  | 0xE => some (.ldy (.vec w))
  | 0xF => some (.ldy (.zvx b))
  | _ => none

/-- Column `$5_` of the opcode map (R78). -/
def column5 (b : Byte) (w : Address) : Nat → Option Instr
  | 0x0 => some (.cmp (.imm b))
  | 0x1 => some (.cmp (.abs w))
  | 0x2 => some (.cmp (.zpg b))
  | 0x3 => some (.cmp (.vec w))
  | 0x4 => some (.cmp (.abx w))
  | 0x5 => some (.cmp (.aby w))
  | 0x6 => some (.cmp (.zpx b))
  | 0x7 => some (.cmp (.zpy b))
  | 0x8 => some (.jmp (.rel b))
  | 0x9 => some (.jmp (.abs w))
  | 0xA => some (.jmp (.zpg b))
  | 0xB => some (.jmp (.vec w))
  | 0xC => some (.jmp (.abx w))
  | 0xD => some (.jmp (.aby w))
  | 0xE => some (.jmp (.zpx b))
  | 0xF => some (.jmp (.zpy b))
  | _ => none

/-- Column `$6_` of the opcode map (R78). -/
def column6 (b : Byte) (w : Address) : Nat → Option Instr
  | 0x0 => some (.stx (.abs w))
  | 0x1 => some (.stx (.aby w))
  | 0x2 => some (.stx (.zpg b))
  | 0x3 => some (.stx (.zpy b))
  | 0x4 => some (.stx (.vec w))
  | 0x5 => some (.stx (.zyv b))
  | 0x6 => some (.lda (.zvx b))
  | 0x7 => some (.lda (.zyv b))
  | 0x8 => some (.sty (.abs w))
  | 0x9 => some (.sty (.abx w))
  | 0xA => some (.sty (.zpg b))
  | 0xB => some (.sty (.zpx b))
  | 0xC => some (.sty (.vec w))
  | 0xD => some (.sty (.zvx b))
  | 0xE => some (.sta (.zvx b))
  | 0xF => some (.sta (.zyv b))
  | _ => none

/-- Column `$7_` of the opcode map (R78). -/
def column7 (b : Byte) (w : Address) : Nat → Option Instr
  | 0x0 => some .nta
  | 0x1 => some (.cal (.abs w))
  | 0x2 => some (.cal (.zpg b))
  | 0x3 => some (.cal (.vec w))
  | 0x4 => some (.cal (.abx w))
  | 0x5 => some (.cal (.aby w))
  | 0x6 => some (.cal (.zpx b))
  | 0x7 => some (.cal (.zpy b))
  | 0x8 => some (.cal (.zvx b))
  | 0x9 => some (.cal (.zyv b))
  | 0xA => some (.jmp (.zvx b))
  | 0xB => some (.jmp (.zyv b))
  | 0xC => some (.cmp (.zvx b))
  | 0xD => some (.cmp (.zyv b))
  | 0xE => some .sla
  | 0xF => some .sra
  | _ => none

/-- Column `$8_` of the opcode map (R78). -/
def column8 (b : Byte) (w : Address) : Nat → Option Instr
  | 0x0 => some (.inc (.abs w))
  | 0x1 => some (.inc (.abx w))
  | 0x2 => some (.inc (.aby w))
  | 0x3 => some (.inc (.zpg b))
  | 0x4 => some (.inc (.zpx b))
  | 0x5 => some (.inc (.zpy b))
  | 0x6 => some (.inc (.vec w))
  | 0x7 => some (.inc (.zvx b))
  | 0x8 => some (.inc (.zyv b))
  | 0x9 => some (.cpx (.imm b))
  | 0xA => some (.cpx (.abs w))
  | 0xB => some (.cpx (.aby w))
  | 0xC => some (.cpx (.zpg b))
  | 0xD => some (.cpx (.zpy b))
  | 0xE => some (.cpx (.vec w))
  | 0xF => some (.cpx (.zyv b))
  | _ => none

/-- Column `$9_` of the opcode map (R78). -/
def column9 (b : Byte) (w : Address) : Nat → Option Instr
  | 0x0 => some (.dec (.abs w))
  | 0x1 => some (.dec (.abx w))
  | 0x2 => some (.dec (.aby w))
  | 0x3 => some (.dec (.zpg b))
  | 0x4 => some (.dec (.zpx b))
  | 0x5 => some (.dec (.zpy b))
  | 0x6 => some (.dec (.vec w))
  | 0x7 => some (.dec (.zvx b))
  | 0x8 => some (.dec (.zyv b))
  | 0x9 => some (.cpy (.imm b))
  | 0xA => some (.cpy (.abs w))
  | 0xB => some (.cpy (.abx w))
  | 0xC => some (.cpy (.zpg b))
  | 0xD => some (.cpy (.zpx b))
  | 0xE => some (.cpy (.vec w))
  | 0xF => some (.cpy (.zvx b))
  | _ => none

/-- Column `$A_` of the opcode map (R78). -/
def columnA (b : Byte) (w : Address) : Nat → Option Instr
  | 0x0 => some (.bit (.imm b))
  | 0x1 => some (.bit (.abs w))
  | 0x2 => some (.bit (.zpg b))
  | 0x3 => some (.bit (.vec w))
  | 0x4 => some (.bit (.abx w))
  | 0x5 => some (.bit (.aby w))
  | 0x6 => some (.bit (.zpx b))
  | 0x7 => some (.bit (.zpy b))
  | 0x8 => some (.and (.imm b))
  | 0x9 => some (.and (.abs w))
  | 0xA => some (.and (.zpg b))
  | 0xB => some (.and (.vec w))
  | 0xC => some (.and (.abx w))
  | 0xD => some (.and (.aby w))
  | 0xE => some (.and (.zpx b))
  | 0xF => some (.and (.zpy b))
  | _ => none

/-- Column `$B_` of the opcode map (R78). -/
def columnB (b : Byte) (w : Address) : Nat → Option Instr
  | 0x0 => some (.bor (.imm b))
  | 0x1 => some (.bor (.abs w))
  | 0x2 => some (.bor (.zpg b))
  | 0x3 => some (.bor (.vec w))
  | 0x4 => some (.bor (.abx w))
  | 0x5 => some (.bor (.aby w))
  | 0x6 => some (.bor (.zpx b))
  | 0x7 => some (.bor (.zpy b))
  | 0x8 => some (.xor (.imm b))
  | 0x9 => some (.xor (.abs w))
  | 0xA => some (.xor (.zpg b))
  | 0xB => some (.xor (.vec w))
  | 0xC => some (.xor (.abx w))
  | 0xD => some (.xor (.aby w))
  | 0xE => some (.xor (.zpx b))
  | 0xF => some (.xor (.zpy b))
  | _ => none

/-- Column `$C_` of the opcode map (R78). -/
def columnC (b : Byte) (w : Address) : Nat → Option Instr
  | 0x0 => some (.adc (.imm b))
  | 0x1 => some (.adc (.abs w))
  | 0x2 => some (.adc (.zpg b))
  | 0x3 => some (.adc (.vec w))
  | 0x4 => some (.adc (.abx w))
  | 0x5 => some (.adc (.aby w))
  | 0x6 => some (.adc (.zpx b))
  | 0x7 => some (.adc (.zpy b))
  | 0x8 => some (.sbc (.imm b))
  | 0x9 => some (.sbc (.abs w))
  | 0xA => some (.sbc (.zpg b))
  | 0xB => some (.sbc (.vec w))
  | 0xC => some (.sbc (.abx w))
  | 0xD => some (.sbc (.aby w))
  | 0xE => some (.sbc (.zpx b))
  | 0xF => some (.sbc (.zpy b))
  | _ => none

/-- Column `$D_` of the opcode map (R78). -/
def columnD (b : Byte) (w : Address) : Nat → Option Instr
  | 0x0 => some (.add (.imm b))
  | 0x1 => some (.add (.abs w))
  | 0x2 => some (.add (.zpg b))
  | 0x3 => some (.add (.vec w))
  | 0x4 => some (.add (.abx w))
  | 0x5 => some (.add (.aby w))
  | 0x6 => some (.add (.zpx b))
  | 0x7 => some (.add (.zpy b))
  | 0x8 => some (.sub (.imm b))
  | 0x9 => some (.sub (.abs w))
  | 0xA => some (.sub (.zpg b))
  | 0xB => some (.sub (.vec w))
  | 0xC => some (.sub (.abx w))
  | 0xD => some (.sub (.aby w))
  | 0xE => some (.sub (.zpx b))
  | 0xF => some (.sub (.zpy b))
  | _ => none

/-- Column `$E_` of the opcode map (R78). -/
def columnE (b : Byte) (_w : Address) : Nat → Option Instr
  | 0x0 => some (.bit (.zvx b))
  | 0x1 => some (.bit (.zyv b))
  | 0x2 => some (.and (.zvx b))
  | 0x3 => some (.and (.zyv b))
  | 0x4 => some (.bor (.zvx b))
  | 0x5 => some (.bor (.zyv b))
  | 0x6 => some (.xor (.zvx b))
  | 0x7 => some (.xor (.zyv b))
  | 0x8 => some (.adc (.zvx b))
  | 0x9 => some (.adc (.zyv b))
  | 0xA => some (.sbc (.zvx b))
  | 0xB => some (.sbc (.zyv b))
  | 0xC => some (.add (.zvx b))
  | 0xD => some (.add (.zyv b))
  | 0xE => some (.sub (.zvx b))
  | 0xF => some (.sub (.zyv b))
  | _ => none

/-- Column `$F_` of the opcode map (R78). -/
def columnF (b : Byte) (w : Address) : Nat → Option Instr
  | 0x0 => some (.not (.zpg b))
  | 0x1 => some (.not (.zpx b))
  | 0x2 => some (.not (.abs w))
  | 0x3 => some (.not (.abx w))
  | 0x4 => some (.shl (.zpg b))
  | 0x5 => some (.shl (.zpx b))
  | 0x6 => some (.shl (.abs w))
  | 0x7 => some (.shl (.abx w))
  | 0x8 => some (.shr (.zpg b))
  | 0x9 => some (.shr (.zpx b))
  | 0xA => some (.shr (.abs w))
  | 0xB => some (.shr (.abx w))
  | 0xC => some (.inv 0xFC#8)
  | 0xD => some (.inv 0xFD#8)
  | 0xE => some (.inv 0xFE#8)
  | 0xF => some (.inv 0xFF#8)
  | _ => none

/-- The cell of the opcode map for an opcode byte (R62, R78): a column by its high digit, a row by its low one. -/
def opcodeCell (op b : Byte) (w : Address) : Option Instr :=
  let low := op.toNat % 16
  match op.toNat / 16 with
  | 0x0 => column0 b w low
  | 0x1 => column1 b w low
  | 0x2 => column2 b w low
  | 0x3 => column3 b w low
  | 0x4 => column4 b w low
  | 0x5 => column5 b w low
  | 0x6 => column6 b w low
  | 0x7 => column7 b w low
  | 0x8 => column8 b w low
  | 0x9 => column9 b w low
  | 0xA => columnA b w low
  | 0xB => columnB b w low
  | 0xC => columnC b w low
  | 0xD => columnD b w low
  | 0xE => columnE b w low
  | 0xF => columnF b w low
  | _ => none

/-- The length in bytes of the instruction that an opcode begins, looked up in the opcode map: the operand bytes do
not bear on it (R82). -/
def lengthOf (op : Byte) : Nat :=
  match opcodeCell op 0x00#8 0x0000#16 with
  | some i => instrSize i
  | none => 1

/-- Reads one instruction off the front of a list of bytes, in the order of their addresses, and answers it with the
bytes that follow (R60, R62, R82). -/
def decode : List Byte → Except DecodeError (Instr × List Byte)
  | [] => .error .noBytes
  | op :: rest =>
    let b1 := rest.getD 0 0x00#8
    let b2 := rest.getD 1 0x00#8
    match opcodeCell op b1 (word b2 b1) with
    | none => .error (.unassigned op)
    | some i =>
      if instrSize i ≤ rest.length + 1 then .ok (i, rest.drop (instrSize i - 1)) else .error (.truncated op)

/-- Byte `k` of an instruction whose bits are the number `w`, byte 0 the first in memory. -/
def byteOf (w k : Nat) : Byte := BitVec.ofNat 8 (w / 256 ^ k)

/-- The longest instruction's three bytes, from the low `nbits` bits of `w`; the bits above them are 0. -/
def tableBytes (nbits w : Nat) : List Byte :=
  let v := w % 2 ^ nbits
  [byteOf v 0, byteOf v 1, byteOf v 2]

/-- The instruction that the decoder reads from a word numbered as spec/opcode_table.json numbers its bits. -/
def decodeTableWord (nbits w : Nat) : Option Instr :=
  match decode (tableBytes nbits w) with
  | .ok (i, _) => some i
  | .error _ => none

/-- The opcode that a row of R77 gives an operand's mode; none where the cell is empty. -/
def opcodeIn (row : List (Mode × Byte)) (m : Operand) : Option Byte := row.lookup m.mode

/-- The opcode of an instruction, by the rows of R77; none where the instruction does not exist in that mode. -/
def opcodeOf : Instr → Option Byte
  | .inv op => if op ∈ invOpcodes then some op else none
  | .nop => some 0x07#8
  | .brk => some 0x01#8
  | .rti => some 0x02#8
  | .ret => some 0x03#8
  | .for_ _ => some 0x04#8
  | .fnd _ => some 0x05#8
  | .app => some 0x08#8
  | .amm => some 0x09#8
  | .spp => some 0x0A#8
  | .smm => some 0x0B#8
  | .xpp => some 0x0C#8
  | .xmm => some 0x0D#8
  | .ypp => some 0x0E#8
  | .ymm => some 0x0F#8
  | .inc m => opcodeIn [(.abs, 0x80#8), (.abx, 0x81#8), (.aby, 0x82#8), (.zpg, 0x83#8), (.zpx, 0x84#8),
      (.zpy, 0x85#8), (.vec, 0x86#8), (.zvx, 0x87#8), (.zyv, 0x88#8)] m
  | .dec m => opcodeIn [(.abs, 0x90#8), (.abx, 0x91#8), (.aby, 0x92#8), (.zpg, 0x93#8), (.zpx, 0x94#8),
      (.zpy, 0x95#8), (.vec, 0x96#8), (.zvx, 0x97#8), (.zyv, 0x98#8)] m
  | .jfb _ => some 0x10#8
  | .jfc _ => some 0x11#8
  | .jfd _ => some 0x12#8
  | .jfn _ => some 0x13#8
  | .jfr _ => some 0x14#8
  | .jfu _ => some 0x15#8
  | .jfv _ => some 0x16#8
  | .jfz _ => some 0x17#8
  | .jtb _ => some 0x18#8
  | .jtc _ => some 0x19#8
  | .jtd _ => some 0x1A#8
  | .jtn _ => some 0x1B#8
  | .jtr _ => some 0x1C#8
  | .jtu _ => some 0x1D#8
  | .jtv _ => some 0x1E#8
  | .jtz _ => some 0x1F#8
  | .jmp m => opcodeIn [(.abs, 0x59#8), (.abx, 0x5C#8), (.aby, 0x5D#8), (.rel, 0x58#8), (.zpg, 0x5A#8),
      (.zpx, 0x5E#8), (.zpy, 0x5F#8), (.vec, 0x5B#8), (.zvx, 0x7A#8), (.zyv, 0x7B#8)] m
  | .cal m => opcodeIn [(.abs, 0x71#8), (.abx, 0x74#8), (.aby, 0x75#8), (.zpg, 0x72#8), (.zpx, 0x76#8),
      (.zpy, 0x77#8), (.vec, 0x73#8), (.zvx, 0x78#8), (.zyv, 0x79#8)] m
  | .clc => some 0x06#8
  | .lda m => opcodeIn [(.imm, 0x30#8), (.abs, 0x31#8), (.abx, 0x34#8), (.aby, 0x35#8), (.zpg, 0x32#8),
      (.zpx, 0x36#8), (.zpy, 0x37#8), (.vec, 0x33#8), (.zvx, 0x66#8), (.zyv, 0x67#8)] m
  | .ldx m => opcodeIn [(.imm, 0x41#8), (.abs, 0x42#8), (.aby, 0x43#8), (.zpg, 0x44#8), (.zpy, 0x45#8),
      (.vec, 0x46#8), (.zyv, 0x47#8)] m
  | .ldy m => opcodeIn [(.imm, 0x49#8), (.abs, 0x4A#8), (.abx, 0x4B#8), (.zpg, 0x4C#8), (.zpx, 0x4D#8),
      (.vec, 0x4E#8), (.zvx, 0x4F#8)] m
  | .sta m => opcodeIn [(.abs, 0x39#8), (.abx, 0x3C#8), (.aby, 0x3D#8), (.zpg, 0x3A#8), (.zpx, 0x3E#8),
      (.zpy, 0x3F#8), (.vec, 0x3B#8), (.zvx, 0x6E#8), (.zyv, 0x6F#8)] m
  | .stx m => opcodeIn [(.abs, 0x60#8), (.aby, 0x61#8), (.zpg, 0x62#8), (.zpy, 0x63#8), (.vec, 0x64#8),
      (.zyv, 0x65#8)] m
  | .sty m => opcodeIn [(.abs, 0x68#8), (.abx, 0x69#8), (.zpg, 0x6A#8), (.zpx, 0x6B#8), (.vec, 0x6C#8),
      (.zvx, 0x6D#8)] m
  | .pha => some 0x20#8
  | .phf => some 0x21#8
  | .phx => some 0x22#8
  | .phy => some 0x23#8
  | .pla => some 0x24#8
  | .plf => some 0x25#8
  | .plx => some 0x26#8
  | .ply => some 0x27#8
  | .taf => some 0x28#8
  | .tas => some 0x29#8
  | .tax => some 0x2A#8
  | .tay => some 0x2B#8
  | .tfa => some 0x2C#8
  | .tsa => some 0x2D#8
  | .txa => some 0x2E#8
  | .tya => some 0x2F#8
  | .cmp m => opcodeIn [(.imm, 0x50#8), (.abs, 0x51#8), (.abx, 0x54#8), (.aby, 0x55#8), (.zpg, 0x52#8),
      (.zpx, 0x56#8), (.zpy, 0x57#8), (.vec, 0x53#8), (.zvx, 0x7C#8), (.zyv, 0x7D#8)] m
  | .cpx m => opcodeIn [(.imm, 0x89#8), (.abs, 0x8A#8), (.aby, 0x8B#8), (.zpg, 0x8C#8), (.zpy, 0x8D#8),
      (.vec, 0x8E#8), (.zyv, 0x8F#8)] m
  | .cpy m => opcodeIn [(.imm, 0x99#8), (.abs, 0x9A#8), (.abx, 0x9B#8), (.zpg, 0x9C#8), (.zpx, 0x9D#8),
      (.vec, 0x9E#8), (.zvx, 0x9F#8)] m
  | .sbc m => opcodeIn [(.imm, 0xC8#8), (.abs, 0xC9#8), (.abx, 0xCC#8), (.aby, 0xCD#8), (.zpg, 0xCA#8),
      (.zpx, 0xCE#8), (.zpy, 0xCF#8), (.vec, 0xCB#8), (.zvx, 0xEA#8), (.zyv, 0xEB#8)] m
  | .sub m => opcodeIn [(.imm, 0xD8#8), (.abs, 0xD9#8), (.abx, 0xDC#8), (.aby, 0xDD#8), (.zpg, 0xDA#8),
      (.zpx, 0xDE#8), (.zpy, 0xDF#8), (.vec, 0xDB#8), (.zvx, 0xEE#8), (.zyv, 0xEF#8)] m
  | .adc m => opcodeIn [(.imm, 0xC0#8), (.abs, 0xC1#8), (.abx, 0xC4#8), (.aby, 0xC5#8), (.zpg, 0xC2#8),
      (.zpx, 0xC6#8), (.zpy, 0xC7#8), (.vec, 0xC3#8), (.zvx, 0xE8#8), (.zyv, 0xE9#8)] m
  | .add m => opcodeIn [(.imm, 0xD0#8), (.abs, 0xD1#8), (.abx, 0xD4#8), (.aby, 0xD5#8), (.zpg, 0xD2#8),
      (.zpx, 0xD6#8), (.zpy, 0xD7#8), (.vec, 0xD3#8), (.zvx, 0xEC#8), (.zyv, 0xED#8)] m
  | .bor m => opcodeIn [(.imm, 0xB0#8), (.abs, 0xB1#8), (.abx, 0xB4#8), (.aby, 0xB5#8), (.zpg, 0xB2#8),
      (.zpx, 0xB6#8), (.zpy, 0xB7#8), (.vec, 0xB3#8), (.zvx, 0xE4#8), (.zyv, 0xE5#8)] m
  | .xor m => opcodeIn [(.imm, 0xB8#8), (.abs, 0xB9#8), (.abx, 0xBC#8), (.aby, 0xBD#8), (.zpg, 0xBA#8),
      (.zpx, 0xBE#8), (.zpy, 0xBF#8), (.vec, 0xBB#8), (.zvx, 0xE6#8), (.zyv, 0xE7#8)] m
  | .and m => opcodeIn [(.imm, 0xA8#8), (.abs, 0xA9#8), (.abx, 0xAC#8), (.aby, 0xAD#8), (.zpg, 0xAA#8),
      (.zpx, 0xAE#8), (.zpy, 0xAF#8), (.vec, 0xAB#8), (.zvx, 0xE2#8), (.zyv, 0xE3#8)] m
  | .bit m => opcodeIn [(.imm, 0xA0#8), (.abs, 0xA1#8), (.abx, 0xA4#8), (.aby, 0xA5#8), (.zpg, 0xA2#8),
      (.zpx, 0xA6#8), (.zpy, 0xA7#8), (.vec, 0xA3#8), (.zvx, 0xE0#8), (.zyv, 0xE1#8)] m
  | .not m => opcodeIn [(.abs, 0xF2#8), (.abx, 0xF3#8), (.zpg, 0xF0#8), (.zpx, 0xF1#8)] m
  | .nta => some 0x70#8
  | .shl m => opcodeIn [(.abs, 0xF6#8), (.abx, 0xF7#8), (.zpg, 0xF4#8), (.zpx, 0xF5#8)] m
  | .shr m => opcodeIn [(.abs, 0xFA#8), (.abx, 0xFB#8), (.zpg, 0xF8#8), (.zpx, 0xF9#8)] m
  | .sla => some 0x7E#8
  | .sra => some 0x7F#8
  | .zra => some 0x38#8
  | .zrx => some 0x40#8
  | .zry => if Config.op48 = .zry then some 0x48#8 else none

/-- The operand bytes in memory order: an address is stored LSB first (20_memory.md R41; R60, formats F2 and F3). -/
def operandBytes : Operand → List Byte
  | .imm b | .rel b | .zpg b | .zpx b | .zpy b | .zvx b | .zyv b => [b]
  | .abs w | .abx w | .aby w | .vec w => [lo w, hi w]

/-- The bytes that follow the opcode. -/
def tailBytes : Instr → List Byte
  | .for_ b | .fnd b => [b]
  | .jfb o | .jfc o | .jfd o | .jfn o | .jfr o | .jfu o | .jfv o | .jfz o => [o]
  | .jtb o | .jtc o | .jtd o | .jtn o | .jtr o | .jtu o | .jtv o | .jtz o => [o]
  | .inc m | .dec m | .jmp m | .cal m => operandBytes m
  | .lda m | .ldx m | .ldy m | .sta m | .stx m | .sty m => operandBytes m
  | .cmp m | .cpx m | .cpy m | .sbc m | .sub m | .adc m | .add m => operandBytes m
  | .bor m | .xor m | .and m | .bit m | .not m | .shl m | .shr m => operandBytes m
  | .inv _ | .nop | .brk | .rti | .ret | .clc | .nta | .sla | .sra | .zra | .zrx | .zry => []
  | .app | .amm | .spp | .smm | .xpp | .xmm | .ypp | .ymm => []
  | .pha | .phf | .phx | .phy | .pla | .plf | .plx | .ply => []
  | .taf | .tas | .tax | .tay | .tfa | .tsa | .txa | .tya => []

/-- The bytes of a well-formed instruction in memory order (R60); no bytes for one that is not well formed. -/
def encode (i : Instr) : List Byte :=
  match opcodeOf i with
  | some op => op :: tailBytes i
  | none => []

end Sys2Proof
end

