-- ==== Sys2Proof/Machine/Timing.lean ====
section
/-! DEFINITION. The clock cycles of an instruction (70_reset_and_hazards.md R237). Timing is no architectural state and
no transition depends on it (R238): it feeds the ghost field `cycles` alone. -/

namespace Sys2Proof.Machine

/-- The cycles an addressing mode costs (R237). -/
def modeCost : Mode → Nat
  | .nam | .imm => 0
  | .rel | .zpg | .zpx | .zpy => 1
  | .abs | .abx | .aby => 2
  | .zvx | .zyv => 3
  | .vec => 4

/-- The cycles an instruction costs besides its mode (R237). -/
def instrCost : Instr → Nat
  | .inv _ | .nop | .brk | .clc => 1
  | .app | .amm | .spp | .smm | .xpp | .xmm | .ypp | .ymm => 1
  | .taf | .tas | .tax | .tay | .tfa | .tsa | .txa | .tya => 1
  | .nta | .sla | .sra | .zra | .zrx | .zry => 1
  | .jfb _ | .jfc _ | .jfd _ | .jfn _ | .jfr _ | .jfu _ | .jfv _ | .jfz _ => 1
  | .jtb _ | .jtc _ | .jtd _ | .jtn _ | .jtr _ | .jtu _ | .jtv _ | .jtz _ => 1
  | .jmp _ => 1
  | .pha | .phf | .phx | .phy | .pla | .plf | .plx | .ply => 2
  | .lda _ | .ldx _ | .ldy _ | .sta _ | .stx _ | .sty _ => 2
  | .cmp _ | .cpx _ | .cpy _ | .sbc _ | .sub _ | .adc _ | .add _ => 2
  | .bor _ | .xor _ | .and _ | .bit _ | .for_ _ | .fnd _ => 2
  | .ret | .inc _ | .dec _ | .not _ | .shl _ | .shr _ | .cal _ => 3
  | .rti => 4

/-- The number the opcode table gives (30_encoding.md R77, R78). -/
def instrCycles (i : Instr) : Nat := modeCost (instrMode i) + instrCost i

end Sys2Proof.Machine
end

