-- ==== Sys2Proof/Machine/Fetch.lean ====
section
/-! DEFINITION. Fetching an instruction's bytes and moving P past them: steps 2 to 4 of the instruction cycle
(30_encoding.md R61, R75, R82). Also where a harness puts an instruction so that the next step fetches it. -/

namespace Sys2Proof.Machine

/-- The `n` bytes from an address on, in ascending address order, modulo 65536 (20_memory.md R44, R51). -/
def State.bytesAt (σ : State) (a : Address) : Nat → List Byte
  | 0 => []
  | n + 1 => σ.read a :: σ.bytesAt (a + 1#16) n

/-- The bytes of the instruction at P: the opcode, and as many operand bytes as it asks for (R82). -/
def State.fetchBytes (σ : State) : List Byte := σ.bytesAt σ.p (lengthOf (σ.read σ.p))

/-- The instruction at P. -/
def State.fetch (σ : State) : Except DecodeError Instr :=
  match decode σ.fetchBytes with
  | .ok (i, _) => .ok i
  | .error e => .error e

/-- P moved past an instruction (R75), and its clock cycles spent (70_reset_and_hazards.md R237). -/
def State.advance (σ : State) (i : Instr) : State :=
  { σ with p := σ.p + BitVec.ofNat 16 (instrSize i), cycles := σ.cycles + instrCycles i }

/-- The vector through which the next step 1 jumps, if it processes an interrupt. -/
def State.nextVector (σ : State) : Option Address :=
  match σ.takeInput.select with
  | .none => none
  | .reset => some resetVector
  | .react => some reactVector
  | .brk _ => some breakVector

/-- Where a harness puts an instruction when the next step enters an interrupt handler: outside the zero page, the
stack page and the vectors. -/
def programBase : Address := 0x0200#16

/-- The state in which the very next step fetches these bytes: they stand at P or, where step 1 will process an
interrupt, at `programBase`, with that interrupt's vector pointing there. Assumption log 5. -/
def State.placeNext (σ : State) (bytes : List Byte) : State :=
  match σ.nextVector with
  | none => σ.storeBytes σ.p bytes
  | some v => (σ.storeBytes programBase bytes).storeBytes v [lo programBase, hi programBase]

end Sys2Proof.Machine
end

