-- ==== Sys2Proof/Machine/Step.lean ====
section
/-! DEFINITION. One iteration of the instruction cycle (30_encoding.md R61). -/

namespace Sys2Proof.Machine

/-- Step 1 processes interrupts; steps 2 to 4 fetch the instruction at P and move P past it; step 5 runs it. -/
def step (s : State) : Host.Outcome State Fault Refusal :=
  let t := s.processInterrupts
  match t.fetch with
  | .ok i => exec i (t.advance i)
  | .error _ => .refused (.undecodable (t.read t.p))

/-- `s` with the instruction of a table word where the next step fetches (Machine/Fetch.lean, `placeNext`). -/
def State.withFetchWord (s : State) (nbits w : Nat) : State := s.placeNext (tableBytes nbits w)

end Sys2Proof.Machine
end

