-- ==== Sys2Proof/Safety.lean ====
section
/-! DEFINITION. The terms that claims about the XL use: the invariant of its states, what an instruction keeps, and the
spec's own tables of what each instruction writes. -/

namespace Sys2Proof.Machine

/-- What every reachable state satisfies: memory is in its canonical form, and the R flag is 0 (10_state.md R21: "The
value of this flag is always 0"; R26: "Legal values: any byte with bit 4 = 0"). -/
def State.Inv (σ : State) : Prop := Memory.wf σ.mem = true ∧ σ.flag .r = false

/-- N and Z are those of the result `r`: N its bit 7, Z that it is zero (10_state.md R20, R24). -/
def ShowsNZ (t : State) (r : Byte) : Prop :=
  t.flag .n = decide (128 ≤ r.toNat) ∧ t.flag .z = decide (r.toNat = 0)

/-- From `σ` to `t` nothing changed but P, the registers in `regs`, the flags in `flags` and the bytes at the addresses in
`stored`: every other register, flag and byte of memory, the four request bits, the inputs to come and the ghost cycle
count are as before. -/
structure Kept (σ t : State) (regs : List Reg) (flags : List Flag) (stored : List Address) : Prop where
  regs : ∀ r, r ∉ regs → t.reg r = σ.reg r
  flags : ∀ fl, fl ∉ flags → t.flag fl = σ.flag fl
  memory : ∀ a, a ∉ stored → t.read a = σ.read a
  requests : t.reqReset = σ.reqReset ∧ t.reqReact = σ.reqReact ∧ t.reqBreakExt = σ.reqBreakExt
    ∧ t.reqBreakBrk = σ.reqBreakBrk
  inputs : t.irqInput = σ.irqInput
  cycles : t.cycles = σ.cycles

/-- All eight flags: the list for a write of the whole of F. -/
def Flag.all : List Flag := [.b, .c, .d, .n, .r, .u, .v, .z]

/-- The flags an instruction writes: the table of 10_state.md R25. -/
def flagsWritten : Instr → List Flag
  | .inv _ => []
  | .nop | .brk | .ret | .jmp _ | .cal _ => []
  | .jfb _ | .jfc _ | .jfd _ | .jfn _ | .jfr _ | .jfu _ | .jfv _ | .jfz _ => []
  | .jtb _ | .jtc _ | .jtd _ | .jtn _ | .jtr _ | .jtu _ | .jtv _ | .jtz _ => []
  | .sta _ | .stx _ | .sty _ | .pha | .phf | .phx | .phy => []
  | .rti | .plf | .taf | .for_ _ | .fnd _ => Flag.all
  | .clc => [.c]
  | .app | .amm | .spp | .smm | .xpp | .xmm | .ypp | .ymm | .inc _ | .dec _ => [.n, .z]
  | .lda _ | .ldx _ | .ldy _ | .pla | .plx | .ply => [.n, .z]
  | .tas | .tax | .tay | .tfa | .tsa | .txa | .tya => [.n, .z]
  | .bor _ | .xor _ | .and _ | .bit _ | .not _ | .nta => [.n, .z]
  | .zra | .zrx | .zry => [.n, .z]
  | .cmp _ | .cpx _ | .cpy _ | .sbc _ | .sub _ | .adc _ | .add _ => [.c, .n, .v, .z]
  | .shl _ | .shr _ | .sla | .sra => [.c, .n, .z]

/-- The byte registers an instruction writes: the writers' lists of 10_state.md R11 (A), R15 (S) and R16 (X and Y). -/
def regsWritten : Instr → List Reg
  | .app | .amm | .lda _ | .tfa | .tsa | .txa | .tya | .sbc _ | .sub _ | .adc _ | .add _ => [.a]
  | .bor _ | .xor _ | .and _ | .nta | .sla | .sra | .zra => [.a]
  | .xpp | .xmm | .ldx _ | .tax | .zrx => [.x]
  | .ypp | .ymm | .ldy _ | .tay | .zry => [.y]
  | .spp | .smm | .tas | .pha | .phf | .phx | .phy | .cal _ | .plf | .ret | .rti => [.s]
  | .pla => [.a, .s]
  | .plx => [.x, .s]
  | .ply => [.y, .s]
  | .inv _ | .nop | .brk | .for_ _ | .fnd _ | .inc _ | .dec _ | .jmp _ | .clc => []
  | .jfb _ | .jfc _ | .jfd _ | .jfn _ | .jfr _ | .jfu _ | .jfv _ | .jfz _ => []
  | .jtb _ | .jtc _ | .jtd _ | .jtn _ | .jtr _ | .jtu _ | .jtv _ | .jtz _ => []
  | .sta _ | .stx _ | .sty _ | .taf | .cmp _ | .cpx _ | .cpy _ | .bit _ | .not _ | .shl _ | .shr _ => []

/-- The addresses an instruction stores to, run in `σ`: the table of 20_memory.md R43. -/
def storedAt (σ : State) : Instr → List Address
  | .sta m | .stx m | .sty m | .inc m | .dec m | .not m | .shl m | .shr m => [addrOf σ m]
  | .pha | .phf | .phx | .phy => [stackAddr σ.s]
  | .cal _ => [stackAddr σ.s, stackAddr (σ.s - 1#8)]
  | .inv _ | .nop | .brk | .rti | .ret | .for_ _ | .fnd _ | .jmp _ | .clc => []
  | .app | .amm | .spp | .smm | .xpp | .xmm | .ypp | .ymm => []
  | .jfb _ | .jfc _ | .jfd _ | .jfn _ | .jfr _ | .jfu _ | .jfv _ | .jfz _ => []
  | .jtb _ | .jtc _ | .jtd _ | .jtn _ | .jtr _ | .jtu _ | .jtv _ | .jtz _ => []
  | .lda _ | .ldx _ | .ldy _ | .pla | .plf | .plx | .ply => []
  | .taf | .tas | .tax | .tay | .tfa | .tsa | .txa | .tya => []
  | .cmp _ | .cpx _ | .cpy _ | .sbc _ | .sub _ | .adc _ | .add _ => []
  | .bor _ | .xor _ | .and _ | .bit _ | .nta | .sla | .sra | .zra | .zrx | .zry => []

/-- The instructions that write P besides moving past themselves: the sixteen conditional jumps, `JMP`, `CAL`, `RET` and
`RTI` (10_state.md R14). -/
def writesP : Instr → Bool
  | .jfb _ | .jfc _ | .jfd _ | .jfn _ | .jfr _ | .jfu _ | .jfv _ | .jfz _ => true
  | .jtb _ | .jtc _ | .jtd _ | .jtn _ | .jtr _ | .jtu _ | .jtv _ | .jtz _ => true
  | .jmp _ | .cal _ | .ret | .rti => true
  | .inv _ | .nop | .brk | .for_ _ | .fnd _ | .clc => false
  | .app | .amm | .spp | .smm | .xpp | .xmm | .ypp | .ymm | .inc _ | .dec _ => false
  | .lda _ | .ldx _ | .ldy _ | .sta _ | .stx _ | .sty _ => false
  | .pha | .phf | .phx | .phy | .pla | .plf | .plx | .ply => false
  | .taf | .tas | .tax | .tay | .tfa | .tsa | .txa | .tya => false
  | .cmp _ | .cpx _ | .cpy _ | .sbc _ | .sub _ | .adc _ | .add _ => false
  | .bor _ | .xor _ | .and _ | .bit _ | .not _ | .nta => false
  | .shl _ | .shr _ | .sla | .sra | .zra | .zrx | .zry => false

/-- An instruction of a single form: it exists, its bytes are these, and the opcode table gives it these cycles. -/
def FormIs (i : Instr) (bytes : List Byte) (cycles : Nat) : Prop :=
  i.wf = true ∧ encode i = bytes ∧ instrCycles i = cycles

/-- An instruction with a memory operand exists in exactly the modes of `rows`, and each row gives the opcode, which the
operand bytes follow, and the cycles. -/
def FormsAre (mk : Operand → Instr) (rows : List (Mode × Byte × Nat)) : Prop :=
  ∀ m : Operand,
    match rows.lookup m.mode with
    | some (op, cycles) => FormIs (mk m) (op :: operandBytes m) cycles
    | none => (mk m).wf = false

/-- The instruction completes with `v` in the register `r`, N and Z from `v`, and nothing else changed. -/
def GivesReg (i : Instr) (σ : State) (r : Reg) (v : Byte) : Prop :=
  ∃ t, exec i σ = .next t ∧ t.reg r = v ∧ ShowsNZ t v ∧ t.p = σ.p ∧ Kept σ t [r] [.n, .z] []

/-- The instruction completes with `v` stored at `a`, N and Z from `v`, and nothing else changed. -/
def GivesByte (i : Instr) (σ : State) (a : Address) (v : Byte) : Prop :=
  ∃ t, exec i σ = .next t ∧ t.read a = v ∧ ShowsNZ t v ∧ t.p = σ.p ∧ Kept σ t [] [.n, .z] [a]

/-- The instruction completes with `v` stored at `a` and nothing else changed, no flag either. -/
def Stores (i : Instr) (σ : State) (a : Address) (v : Byte) : Prop :=
  ∃ t, exec i σ = .next t ∧ t.read a = v ∧ t.p = σ.p ∧ Kept σ t [] [] [a]

/-- The instruction completes with `v` pushed: stored at `$0100 + S`, S one lower modulo 256, and nothing else changed. -/
def Pushes (i : Instr) (σ : State) (v : Byte) : Prop :=
  ∃ t, exec i σ = .next t ∧ t.read (stackAddr σ.s) = v ∧ t.s.toNat = (σ.s.toNat + 255) % 256 ∧ t.p = σ.p ∧
    Kept σ t [.s] [] [stackAddr σ.s]

/-- The instruction completes with the register `r` pulled: S one higher modulo 256, `r` the byte at `$0100` plus the new
S, N and Z from it, and nothing else changed. -/
def Pulls (i : Instr) (σ : State) (r : Reg) : Prop :=
  ∃ t, exec i σ = .next t ∧ t.s.toNat = (σ.s.toNat + 1) % 256 ∧ t.reg r = σ.read (stackAddr t.s) ∧
    ShowsNZ t (t.reg r) ∧ t.p = σ.p ∧ Kept σ t [r, .s] [.n, .z] []

/-- The conditional jump `mk`, with opcode `op`, jumps exactly if the flag `fl` is `v`: then to its own opcode's address,
`P - 2` at step 5, plus the signed offset; else P stays at the next instruction. Nothing else changes. -/
def JumpsWhen (mk : Byte → Instr) (op : Byte) (fl : Flag) (v : Bool) : Prop :=
  ∀ (o : Byte) (σ : State), FormIs (mk o) [op, o] 2 ∧
    ∃ t, exec (mk o) σ = .next t ∧ t.p = (if σ.flag fl = v then σ.p - 2#16 + sext16 o else σ.p) ∧ Kept σ t [] [] []

/-- C, V, N and Z are those of the sum of `a`, `m` and the carry `cin` (45_compare_arith.md R170): C that the unsigned
sum exceeds a byte, V that the signed sum lies outside -128..127, N and Z from the 8-bit result. -/
def ShowsSum (t : State) (a m : Byte) (cin : Bool) : Prop :=
  let sum := a.toNat + m.toNat + cin.toNat
  let signed := a.toInt + m.toInt + (cin.toNat : Int)
  t.flag .c = decide (255 < sum) ∧ t.flag .v = decide (signed < -128 ∨ 127 < signed) ∧
    t.flag .n = decide (128 ≤ sum % 256) ∧ t.flag .z = decide (sum % 256 = 0)

/-- C, V, N and Z are those of `a` less `m` less the borrow, where `cin` says that none is pending (45_compare_arith.md
R170): C that the unsigned difference needs no borrow, V that the signed one lies outside -128..127, N and Z from the
8-bit result. -/
def ShowsDifference (t : State) (a m : Byte) (cin : Bool) : Prop :=
  let diff := (a.toNat : Int) - (m.toNat : Int) - (1 - (cin.toNat : Int))
  let signed := a.toInt - m.toInt - (1 - (cin.toNat : Int))
  t.flag .c = decide (0 ≤ diff) ∧ t.flag .v = decide (signed < -128 ∨ 127 < signed) ∧
    t.flag .n = decide (128 ≤ diff % 256) ∧ t.flag .z = decide (diff % 256 = 0)

/-- What the entry to a REACT or BREAK interrupt leaves (60_exceptions.md R206): P and the old F on the stack, S three
lower, D set, B set if `BRK` asked, P from the vector bytes at `vec` and `vec + 1`, the requests dropped, 5 cycles spent,
and the rest unchanged. -/
structure Entered (σ t : State) (vec : Address) (byBrk : Bool) : Prop where
  msb : t.read (stackAddr σ.s) = hi σ.p
  lsb : t.read (stackAddr (σ.s - 1#8)) = lo σ.p
  status : t.read (stackAddr (σ.s - 2#8)) = σ.f
  index : t.s = σ.s - 3#8
  handler : t.p = word (σ.read (vec + 1#16)) (σ.read vec)
  disabled : t.flag .d = true
  cause : t.flag .b = (byBrk || σ.flag .b)
  flags : ∀ fl, fl ≠ .d → fl ≠ .b → t.flag fl = σ.flag fl
  regs : t.a = σ.a ∧ t.x = σ.x ∧ t.y = σ.y
  memory : ∀ a, a ∉ [stackAddr σ.s, stackAddr (σ.s - 1#8), stackAddr (σ.s - 2#8)] → t.read a = σ.read a
  requests : t.reqReset = false ∧ t.reqReact = false ∧ t.reqBreakExt = false ∧ t.reqBreakBrk = false
  inputs : t.irqInput = σ.irqInput.tail
  cycles : t.cycles = σ.cycles + 5

/-- Two outcomes are the same but for the ghost cycle count of a next state. -/
def SameButCycles : Result → Result → Prop
  | .next t, .next u => { t with cycles := 0 } = { u with cycles := 0 }
  | .fault r, .fault q => r = q
  | .refused r, .refused q => r = q
  | _, _ => False

end Sys2Proof.Machine
end

