-- ==== Sys2Proof/Certificates/Slice0/Obligations.lean ====
section
/-! DEFINITION. The statements for the provers, one `def Obligations.<Name> : Prop` each. Docstrings say what each one
states; OBLIGATIONS.json has the rules they formalise. An instruction's statement runs at step 5 of the cycle, with P
already past the instruction (30_encoding.md R75), and its encodings and cycles are those of the rule's own Encoding line. -/

open Sys2Proof Sys2Proof.Machine

/-- For every well-formed instruction i and every list of bytes that follows it, decode reads i off the front of
encode i and answers exactly the bytes that follow. -/
def Obligations.DecodeInvertsEncode : Prop :=
  ∀ (i : Instr) (rest : List Byte), i.wf = true → decode (encode i ++ rest) = .ok (i, rest)

/-- If decode reads an instruction i off a list of bytes and leaves rest, then i is well formed and the list is encode
i followed by rest: no bit of an instruction is dropped and every word has one meaning. -/
def Obligations.DecodedBytesAreTheEncoding : Prop :=
  ∀ (bytes : List Byte) (i : Instr) (rest : List Byte), decode bytes = .ok (i, rest) →
    i.wf = true ∧ bytes = encode i ++ rest

/-- Any opcode byte followed by two bytes decodes to an instruction whose opcode is that byte; any other bytes after
the same opcode give an instruction with the same opcode, addressing mode, size and cycles, and the size is that of
the mode. -/
def Obligations.OpcodeAloneDecidesDecoding : Prop :=
  ∀ (op b1 b2 : Byte) (rest : List Byte), ∃ i r, decode (op :: b1 :: b2 :: rest) = .ok (i, r) ∧
    opcodeOf i = some op ∧ instrSize i = modeSize (instrMode i) ∧ instrSize i = lengthOf op ∧
    ∀ (c1 c2 : Byte) (rest' : List Byte) (j : Instr) (q : List Byte), decode (op :: c1 :: c2 :: rest') = .ok (j, q) →
      opcodeOf j = some op ∧ instrMode j = instrMode i ∧ instrSize j = instrSize i ∧ instrCycles j = instrCycles i

/-- One word of each family, written bit by bit from its row of R77, decodes to the instruction of that row with its
operand. -/
def Obligations.SampleWordsDecode : Prop :=
  decode [0b00000001#8] = .ok (.brk, []) ∧
  decode [0b10000001#8, 0x30#8, 0x12#8] = .ok (.inc (.abx 0x1230#16), []) ∧
  decode [0b00010111#8, 0xFD#8] = .ok (.jfz 0xFD#8, []) ∧
  decode [0b01111001#8, 0x20#8] = .ok (.cal (.zyv 0x20#8), []) ∧
  decode [0b01100110#8, 0x20#8] = .ok (.lda (.zvx 0x20#8), []) ∧
  decode [0b00100001#8] = .ok (.phf, []) ∧
  decode [0b11011011#8, 0x34#8, 0x12#8] = .ok (.sub (.vec 0x1234#16), []) ∧
  decode [0b10101101#8, 0x00#8, 0x10#8] = .ok (.and (.aby 0x1000#16), []) ∧
  decode [0b11111001#8, 0x10#8] = .ok (.shr (.zpx 0x10#8), [])

/-- After storing v at a, address a reads v, every other address, register and flag reads as before; an address that
nothing has defined reads the byte of the initial image MEM_INIT. That reading such a byte is a free draw and not a
fault is the model's choice between the two that U4 and R32 allow (assumption log 2); that all of memory is plain
memory is the spec's decision D16. -/
def Obligations.ReadAfterStore : Prop :=
  ∀ (σ : State) (a : Address) (v : Byte),
    (σ.store a v).read a = v ∧ (∀ b, b ≠ a → (σ.store a v).read b = σ.read b) ∧
    (∀ r, (σ.store a v).reg r = σ.reg r) ∧ (σ.store a v).f = σ.f ∧ (σ.store a v).p = σ.p ∧
    ∀ b, Memory.lookup σ.mem b.toNat = none → σ.read b = Config.memInit b

/-- Push(v) stores v at $0100 + S, takes 1 from S modulo 256 and changes no other byte; Pull adds 1 to S modulo 256
and answers the byte at $0100 plus the new S; a Pull right after Push(v) returns v and restores S. The order of write
and decrement rests on the spec's decision D5. -/
def Obligations.StackPushThenPull : Prop :=
  ∀ (σ : State) (v : Byte),
    (σ.push v).read (stackAddr σ.s) = v ∧ (σ.push v).s.toNat = (σ.s.toNat + 255) % 256 ∧
    (∀ b, b ≠ stackAddr σ.s → (σ.push v).read b = σ.read b) ∧
    σ.dropTop.s.toNat = (σ.s.toNat + 1) % 256 ∧ σ.top = σ.read (stackAddr σ.dropTop.s) ∧
    (∀ b, σ.dropTop.read b = σ.read b) ∧
    (σ.push v).top = v ∧ (σ.push v).dropTop.s = σ.s

/-- For every index i the stack location is $0100 + i, at most $01FF; a push with S = $00 writes $0100 and leaves S =
$FF; a pull with S = $FF reads $0100 and leaves S = $00. Rests on the spec's decisions D4 and D5. -/
def Obligations.StackStaysInItsPage : Prop :=
  (∀ i : Byte, (stackAddr i).toNat = 256 + i.toNat ∧ 256 ≤ (stackAddr i).toNat ∧ (stackAddr i).toNat ≤ 511) ∧
  (∀ (σ : State) (v : Byte), σ.s = 0x00#8 → (σ.push v).read 0x0100#16 = v ∧ (σ.push v).s = 0xFF#8) ∧
  (∀ σ : State, σ.s = 0xFF#8 → σ.top = σ.read 0x0100#16 ∧ σ.dropTop.s = 0x00#8)

/-- With ia the address of the opcode byte, every mode but NAM and IMM gives the number its rule states: sums of
16-bit addresses modulo 65536, zero-page sums modulo 256, pointers little-endian, the pointer of ZVX and ZYV inside
the zero page, X added after the pointer of ZVX and Y before that of ZYV; and the data byte of every such mode is the
byte at addr. The wrap modulo 65536 is the spec's decision D3. -/
def Obligations.AddressingModesComputeAddr : Prop :=
  ∀ (σ : State) (w : Address) (b : Byte),
    addrOf σ (.abs w) = w ∧
    (addrOf σ (.abx w)).toNat = (w.toNat + σ.x.toNat) % 65536 ∧
    (addrOf σ (.aby w)).toNat = (w.toNat + σ.y.toNat) % 65536 ∧
    (∀ ia : Address, σ.p = ia + 2#16 →
      (addrOf σ (.rel b)).toNat = (ia.toNat + if b.toNat < 128 then b.toNat else b.toNat + 0xFF00) % 65536) ∧
    (addrOf σ (.zpg b)).toNat = b.toNat ∧
    (addrOf σ (.zpx b)).toNat = (b.toNat + σ.x.toNat) % 256 ∧
    (addrOf σ (.zpy b)).toNat = (b.toNat + σ.y.toNat) % 256 ∧
    (addrOf σ (.vec w)).toNat = (σ.read w).toNat + 256 * (σ.read (BitVec.ofNat 16 (w.toNat + 1))).toNat ∧
    (addrOf σ (.zvx b)).toNat = ((σ.read (BitVec.ofNat 16 b.toNat)).toNat +
      256 * (σ.read (BitVec.ofNat 16 ((b.toNat + 1) % 256))).toNat + σ.x.toNat) % 65536 ∧
    (addrOf σ (.zyv b)).toNat = (σ.read (BitVec.ofNat 16 ((b.toNat + σ.y.toNat) % 256))).toNat +
      256 * (σ.read (BitVec.ofNat 16 ((b.toNat + σ.y.toNat + 1) % 256))).toNat ∧
    ∀ m : Operand, m.mode ≠ .imm → dataOf σ m = σ.read (addrOf σ m)

/-- If the instruction fetched at P has mode IMM and operand byte b, then after P has moved past it addr is the
address after the opcode, memory there holds b, and b is the data byte the instruction uses. -/
def Obligations.ImmediateOperandIsTheByteAtAddr : Prop :=
  ∀ (σ : State) (i : Instr) (b : Byte), σ.fetch = .ok i → instrMode i = .imm → tailBytes i = [b] →
    addrOf (σ.advance i) (.imm b) = σ.p + 1#16 ∧ (σ.advance i).read (σ.p + 1#16) = b ∧
    dataOf (σ.advance i) (.imm b) = b

/-- If, after step 1 has processed the interrupts, the bytes from P on are the encoding of a well-formed instruction
i, then step is exec of i in that state with P moved past the bytes of i and the cycles of i spent. That P is past the
instruction when it runs is the spec's decision D2 (assumption log 14); that the first instruction of a handler runs
in the same step as the entry is its decision D27 (log 10); the ghost count of cycles is the model's own field (log
4). -/
def Obligations.StepRunsTheDecodedInstruction : Prop :=
  ∀ (σ : State) (i : Instr), i.wf = true →
    (∀ (k : Nat) (h : k < (encode i).length),
      σ.processInterrupts.read (σ.processInterrupts.p + BitVec.ofNat 16 k) = (encode i)[k]) →
    step σ = exec i { σ.processInterrupts with
      p := σ.processInterrupts.p + BitVec.ofNat 16 (encode i).length
      cycles := σ.processInterrupts.cycles + instrCycles i }

/-- For every state: if the opcode at P after step 1 is one of the five of INV, the step faults with that opcode and
its address; with any other opcode the step gives a next state. No other event stops the machine. The fault of INV is
the spec's decision D13 (assumption log 6); that the read of an undefined byte does not stop the machine is the
model's choice of a free draw over a fault (log 2); that every opcode decodes, $48 as ZRY, is the spec's decision D14
(log 8). -/
def Obligations.MachineStopsOnlyOnInv : Prop :=
  ∀ σ : State,
    if σ.processInterrupts.read σ.processInterrupts.p ∈ [0x00#8, 0xFC#8, 0xFD#8, 0xFE#8, 0xFF#8]
    then step σ = .fault (.invalidOpcode (σ.processInterrupts.read σ.processInterrupts.p) σ.processInterrupts.p)
    else ∃ t, step σ = .next t

/-- If in a state the memory is in canonical form (addresses rising, each below 65536) and the R flag is 0, and a step
gives a next state, then both hold there. That every whole-F write clears bit 4 is the spec's decision D6; the
canonical form is the model's (assumption log 2). -/
def Obligations.InvariantKeptByStep : Prop :=
  ∀ σ t : State, σ.Inv → step σ = .next t → t.Inv

/-- State.reset has its memory in canonical form and the R flag 0. R31 gives the registers no value before the first
RESET: that F is $00 there is the model's choice (assumption log 1); the canonical form of memory is the model's (log
2). -/
def Obligations.InvariantAtReset : Prop :=
  State.reset.Inv

/-- For every instruction and every state in which it completes, a flag that the table of R25 does not list for the
instruction is as before. -/
def Obligations.FlagsOutsideTheTableAreKept : Prop :=
  ∀ (i : Instr) (σ t : State), exec i σ = .next t → ∀ fl, fl ∉ flagsWritten i → t.flag fl = σ.flag fl

/-- For every instruction and every state in which it completes, each of A, S, X and Y that the writers' lists of R11,
R15 and R16 do not give it is as before. -/
def Obligations.RegistersOutsideTheListsAreKept : Prop :=
  ∀ (i : Instr) (σ t : State), exec i σ = .next t → ∀ r, r ∉ regsWritten i → t.reg r = σ.reg r

/-- For every instruction and every state in which it completes, every byte at an address other than those it stores
to (the addr of a store or read-modify-write, the stack locations of a push or CAL, as the addressing mode computes
them before the instruction runs) is as before. -/
def Obligations.BytesOutsideTheStoresAreKept : Prop :=
  ∀ (i : Instr) (σ t : State), exec i σ = .next t → ∀ a, a ∉ storedAt σ i → t.read a = σ.read a

/-- For every instruction other than the sixteen conditional jumps, JMP, CAL, RET and RTI, and every state in which it
completes, P stays at the next instruction. -/
def Obligations.OnlyControlTransferWritesP : Prop :=
  ∀ (i : Instr) (σ t : State), exec i σ = .next t → writesP i = false → t.p = σ.p

/-- For every instruction and every state in which it completes, the requests for RESET, REACT and an external BREAK,
the inputs to come and the cycle count are as before, and the BRK request is as before unless the instruction is BRK.
-/
def Obligations.OnlyBrkRaisesARequest : Prop :=
  ∀ (i : Instr) (σ t : State), exec i σ = .next t →
    t.reqReset = σ.reqReset ∧ t.reqReact = σ.reqReact ∧ t.reqBreakExt = σ.reqBreakExt ∧
    (i ≠ .brk → t.reqBreakBrk = σ.reqBreakBrk) ∧ t.irqInput = σ.irqInput ∧ t.cycles = σ.cycles

/-- Two states that differ in the ghost cycle count alone take steps with the same outcome, next states again equal
but for that count. -/
def Obligations.TimingChangesNothing : Prop :=
  ∀ (σ : State) (c : Nat), SameButCycles (step σ) (step { σ with cycles := c })

/-- If a step gives a next state, the cycle count grows by 2 where RESET is processed, 5 where REACT or BREAK is, 0
where none is, plus the cycles the opcode table gives the fetched instruction. The ghost count is the model's own
field (assumption log 4). -/
def Obligations.StepSpendsTheTabledCycles : Prop :=
  ∀ (σ t : State) (i : Instr), σ.processInterrupts.fetch = .ok i → step σ = .next t →
    t.cycles = σ.cycles + instrCycles i +
      match σ.takeInput.select with
      | .none => 0
      | .reset => 2
      | .react => 5
      | .brk _ => 5

/-- Every well-formed instruction takes at least 1 and at most 7 cycles, and 7 exactly if it is CAL VEC, INC VEC or
DEC VEC. -/
def Obligations.LongestInstructionIsSevenCycles : Prop :=
  ∀ i : Instr, i.wf = true → 1 ≤ instrCycles i ∧ instrCycles i ≤ 7 ∧
    (instrCycles i = 7 ↔ ∃ w, i = .cal (.vec w) ∨ i = .inc (.vec w) ∨ i = .dec (.vec w))

/-- In every state, if a table word decodes to i, then the step from withFetchWord of that word is exec of i after
step 1 of that state, with P moved past i. withFetchWord stands for loading a program (assumption log 5). -/
def Obligations.PlacedWordIsTheNextInstruction : Prop :=
  ∀ (σ : State) (nbits w : Nat) (i : Instr), decodeTableWord nbits w = some i →
    step (σ.withFetchWord nbits w) = exec i ((σ.withFetchWord nbits w).processInterrupts.advance i)

/-- Step 1 ORs the next entry of the external input into the three external request bits; after it all four request
bits are 0 and that entry is used up, whatever was processed. That a request not processed is dropped is the spec's
decision D11. -/
def Obligations.RequestsTakenInAndDropped : Prop :=
  (∀ σ : State, σ.irqInput = [] → σ.takeInput = σ) ∧
  (∀ (σ : State) (e : ExtRequests) (rest : List ExtRequests), σ.irqInput = e :: rest →
    σ.takeInput.reqReset = (σ.reqReset || e.reset) ∧ σ.takeInput.reqReact = (σ.reqReact || e.react) ∧
    σ.takeInput.reqBreakExt = (σ.reqBreakExt || e.brk) ∧ σ.takeInput.irqInput = rest) ∧
  ∀ σ : State, σ.processInterrupts.reqReset = false ∧ σ.processInterrupts.reqReact = false ∧
    σ.processInterrupts.reqBreakExt = false ∧ σ.processInterrupts.reqBreakBrk = false ∧
    σ.processInterrupts.irqInput = σ.irqInput.tail

/-- Where RESET is requested, whatever else is and whatever D is, step 1 sets A, F, S, X and Y to 0, loads P from the
two bytes at $FFFE, changes no byte of memory, drops all requests (the spec's decision D30) and spends 2 cycles. -/
def Obligations.ResetZeroesTheRegisters : Prop :=
  ∀ σ : State, σ.takeInput.reqReset = true →
    σ.processInterrupts.a = 0x00#8 ∧ σ.processInterrupts.f = 0x00#8 ∧ σ.processInterrupts.s = 0x00#8 ∧
    σ.processInterrupts.x = 0x00#8 ∧ σ.processInterrupts.y = 0x00#8 ∧
    σ.processInterrupts.p.toNat = (σ.read 0xFFFE#16).toNat + 256 * (σ.read 0xFFFF#16).toNat ∧
    (∀ a, σ.processInterrupts.read a = σ.read a) ∧
    σ.processInterrupts.reqReset = false ∧ σ.processInterrupts.reqReact = false ∧
    σ.processInterrupts.reqBreakExt = false ∧ σ.processInterrupts.reqBreakBrk = false ∧
    σ.processInterrupts.cycles = σ.cycles + 2

/-- Where REACT is requested and RESET is not, step 1 enters REACT: P (MSB first) and the old F pushed, S three lower,
D set, B and the other flags and A, X, Y unchanged, P from $FFFC and $FFFD, no other byte changed, requests dropped, 5
cycles. F is pushed as it stands by the spec's decision D28. -/
def Obligations.ReactEntryPushesPAndF : Prop :=
  ∀ σ : State, σ.takeInput.reqReset = false → σ.takeInput.reqReact = true →
    Entered σ σ.processInterrupts 0xFFFC#16 false

/-- Where BREAK is requested, from outside or by BRK, neither RESET nor REACT is, and D is 0, step 1 enters BREAK as
REACT is entered, with P from $FFFA and $FFFB and B set if BRK requested it; B is otherwise as before. Both causes
together give one entry with B set (the spec's decision D26). -/
def Obligations.BreakEntrySetsBForBrk : Prop :=
  ∀ σ : State, σ.takeInput.reqReset = false → σ.takeInput.reqReact = false →
    (σ.takeInput.reqBreakExt = true ∨ σ.reqBreakBrk = true) → σ.flag .d = false →
    Entered σ σ.processInterrupts 0xFFFA#16 σ.reqBreakBrk

/-- Where neither RESET nor REACT is requested and BREAK is not requested or D is 1, step 1 leaves every register,
flag, byte of memory and the cycle count as they were; the request bits are cleared and the input entry used up (the
spec's decisions D11 and D25). -/
def Obligations.MaskedBreakChangesNothing : Prop :=
  ∀ σ : State, σ.takeInput.reqReset = false → σ.takeInput.reqReact = false →
    ((σ.takeInput.reqBreakExt = false ∧ σ.reqBreakBrk = false) ∨ σ.flag .d = true) →
    σ.processInterrupts = { σ with
      reqReset := false, reqReact := false, reqBreakExt := false, reqBreakBrk := false, irqInput := σ.irqInput.tail }

/-- If the R flag is 0, then RTI in any state that has the memory and the S an interrupt entry left restores the F, P
and S from before the entry. -/
def Obligations.RtiInvertsTheEntry : Prop :=
  ∀ (σ τ : State) (vec : Address) (byBrk : Bool), σ.flag .r = false →
    τ.mem = (σ.interruptEntry vec byBrk).mem → τ.s = (σ.interruptEntry vec byBrk).s →
    ∃ t, exec .rti τ = .next t ∧ t.f = σ.f ∧ t.p = σ.p ∧ t.s = σ.s ∧ t.a = τ.a ∧ t.x = τ.x ∧ t.y = τ.y

/-- If the opcode at P is BRK, nothing is requested or to come and D is 0, then the step only moves P by 1 and raises
the request, with no flag changed; step 1 of the next step then enters BREAK from that state, pushing the address
after the BRK and setting B. That BRK itself does not set B is the spec's decision D10. -/
def Obligations.BrkTrapsToTheNextInstruction : Prop :=
  ∀ σ : State, σ.read σ.p = 0x01#8 → σ.irqInput = [] → σ.reqReset = false → σ.reqReact = false →
    σ.reqBreakExt = false → σ.reqBreakBrk = false → σ.flag .d = false →
    ∃ t, step σ = .next t ∧
      t = { σ with p := σ.p + 1#16, reqBreakBrk := true, cycles := σ.cycles + 1 } ∧
      Entered t t.processInterrupts 0xFFFA#16 true ∧
      t.processInterrupts.read (stackAddr σ.s) = hi (σ.p + 1#16) ∧
      t.processInterrupts.read (stackAddr (σ.s - 1#8)) = lo (σ.p + 1#16) ∧
      t.processInterrupts.read (stackAddr (σ.s - 2#8)) = σ.f

/-- If the opcode at P is BRK, nothing is requested or to come and D is 1, then after the step and step 1 of the next
nothing has changed but P, one higher, and the cycle count, one higher. That the masked request is dropped is the
spec's decisions D11 and D25. -/
def Obligations.BrkWhileMaskedIsANop : Prop :=
  ∀ σ : State, σ.read σ.p = 0x01#8 → σ.irqInput = [] → σ.reqReset = false → σ.reqReact = false →
    σ.reqBreakExt = false → σ.reqBreakBrk = false → σ.flag .d = true →
    ∃ t, step σ = .next t ∧ t.processInterrupts = { σ with p := σ.p + 1#16, cycles := σ.cycles + 1 }

/-- INV exists at the five opcodes $00, $FC, $FD, $FE and $FF, one byte and 1 cycle by the table, and its meaning, in
every state, is the model fault that names the opcode and the address of the opcode byte, P - 1 at step 5 (the spec's
decision D13). -/
def Obligations.InvFaults : Prop :=
  (∀ op ∈ [0x00#8, 0xFC#8, 0xFD#8, 0xFE#8, 0xFF#8], FormIs (.inv op) [op] 1) ∧
  ∀ (op : Byte) (σ : State), exec (.inv op) σ = .fault (.invalidOpcode op (σ.p - 1#16))

/-- NOP is the byte $07, 1 cycle; it completes in every state, and the next state is the state itself, P already past
the instruction. -/
def Obligations.NopDoesNothing : Prop :=
  FormIs .nop [0x07#8] 1 ∧ ∀ σ : State, exec .nop σ = .next σ

/-- BRK is the byte $01, 1 cycle; it completes in every state and sets the hidden request bit of BRK and nothing else:
no flag changes (the spec's decision D10) and nothing is pushed. -/
def Obligations.BrkOnlyRaisesItsRequest : Prop :=
  FormIs .brk [0x01#8] 1 ∧ ∀ σ : State, exec .brk σ = .next { σ with reqBreakBrk := true }

/-- RTI is the byte $02, 4 cycles; it completes in every state: with S plus 1, plus 2 and plus 3 modulo 256, F is the
first byte with bit 4 forced to 0 (the spec's decision D6), P has the second as its LSB and the third as its MSB, S is
three higher, and nothing else changes. -/
def Obligations.RtiRestoresFAndP : Prop :=
  FormIs .rti [0x02#8] 4 ∧ ∀ σ : State, ∃ t, exec .rti σ = .next t ∧
    t.f = (σ.read (stackAddr (σ.s + 1#8)) &&& 0xEF#8) ∧
    t.p.toNat = (σ.read (stackAddr (σ.s + 2#8))).toNat + 256 * (σ.read (stackAddr (σ.s + 3#8))).toNat ∧
    t.s.toNat = (σ.s.toNat + 3) % 256 ∧ Kept σ t [.s] [.b, .c, .d, .n, .r, .u, .v, .z] []

/-- RET is the byte $03, 3 cycles; it completes in every state: P has the byte at S plus 1 as its LSB and the byte at
S plus 2 as its MSB, used as it is, S is two higher modulo 256, and nothing else changes. -/
def Obligations.RetRestoresP : Prop :=
  FormIs .ret [0x03#8] 3 ∧ ∀ σ : State, ∃ t, exec .ret σ = .next t ∧
    t.p.toNat = (σ.read (stackAddr (σ.s + 1#8))).toNat + 256 * (σ.read (stackAddr (σ.s + 2#8))).toNat ∧
    t.s.toNat = (σ.s.toNat + 2) % 256 ∧ Kept σ t [.s] [] []

/-- FOR and FND exist in mode IMM alone, with the bytes of their rows and 2 cycles; they complete in every state: FOR
sets every flag whose bit in the operand is 1 and keeps the others, FND clears every flag whose bit is 0 and keeps the
others, R is 0 after either (the spec's decision D6), and nothing else changes. -/
def Obligations.ForAndFndWriteTheFlags : Prop :=
  ∀ (b : Byte) (σ : State), FormIs (.for_ b) [0x04#8, b] 2 ∧ FormIs (.fnd b) [0x05#8, b] 2 ∧
    (∃ t, exec (.for_ b) σ = .next t ∧ (∀ fl, fl ≠ .r → t.flag fl = (σ.flag fl || b.getLsbD (flagBit fl))) ∧
      t.flag .r = false ∧ t.p = σ.p ∧ Kept σ t [] [.b, .c, .d, .n, .r, .u, .v, .z] []) ∧
    (∃ t, exec (.fnd b) σ = .next t ∧ (∀ fl, fl ≠ .r → t.flag fl = (σ.flag fl && b.getLsbD (flagBit fl))) ∧
      t.flag .r = false ∧ t.p = σ.p ∧ Kept σ t [] [.b, .c, .d, .n, .r, .u, .v, .z] [])

/-- Each of the eight has the byte and the cycle of its rule and completes in every state: its register is one higher
or one lower modulo 256, N and Z are those of the new value, and no other register, flag (C and V among them) or byte
of memory changes. The wrap is the spec's decision D4. -/
def Obligations.RegisterIncrementsAndDecrements : Prop :=
  FormIs .app [0x08#8] 1 ∧
  FormIs .amm [0x09#8] 1 ∧
  FormIs .spp [0x0A#8] 1 ∧
  FormIs .smm [0x0B#8] 1 ∧
  FormIs .xpp [0x0C#8] 1 ∧
  FormIs .xmm [0x0D#8] 1 ∧
  FormIs .ypp [0x0E#8] 1 ∧
  FormIs .ymm [0x0F#8] 1 ∧
  ∀ σ : State,
    GivesReg .app σ .a (BitVec.ofNat 8 (σ.a.toNat + 1)) ∧ GivesReg .amm σ .a (BitVec.ofNat 8 (σ.a.toNat + 255)) ∧
    GivesReg .spp σ .s (BitVec.ofNat 8 (σ.s.toNat + 1)) ∧ GivesReg .smm σ .s (BitVec.ofNat 8 (σ.s.toNat + 255)) ∧
    GivesReg .xpp σ .x (BitVec.ofNat 8 (σ.x.toNat + 1)) ∧ GivesReg .xmm σ .x (BitVec.ofNat 8 (σ.x.toNat + 255)) ∧
    GivesReg .ypp σ .y (BitVec.ofNat 8 (σ.y.toNat + 1)) ∧ GivesReg .ymm σ .y (BitVec.ofNat 8 (σ.y.toNat + 255))

/-- Each of the three exists in exactly the modes of its rule, with their opcodes and cycles, and completes in every
state: the byte at addr is one higher modulo 256, one lower modulo 256, or inverted (255 less the byte), N and Z are
those of the new byte, and no register, other flag or other byte changes. The wrap is the spec's decision D4. -/
def Obligations.MemoryIncDecAndNot : Prop :=
  FormsAre .inc [(.abs, 0x80#8, 5), (.abx, 0x81#8, 5), (.aby, 0x82#8, 5), (.zpg, 0x83#8, 4), (.zpx, 0x84#8, 4),
    (.zpy, 0x85#8, 4), (.vec, 0x86#8, 7), (.zvx, 0x87#8, 6), (.zyv, 0x88#8, 6)] ∧
  FormsAre .dec [(.abs, 0x90#8, 5), (.abx, 0x91#8, 5), (.aby, 0x92#8, 5), (.zpg, 0x93#8, 4), (.zpx, 0x94#8, 4),
    (.zpy, 0x95#8, 4), (.vec, 0x96#8, 7), (.zvx, 0x97#8, 6), (.zyv, 0x98#8, 6)] ∧
  FormsAre .not [(.zpg, 0xF0#8, 4), (.zpx, 0xF1#8, 4), (.abs, 0xF2#8, 5), (.abx, 0xF3#8, 5)] ∧
  ∀ (m : Operand) (σ : State),
    GivesByte (.inc m) σ (addrOf σ m) (BitVec.ofNat 8 ((dataOf σ m).toNat + 1)) ∧
    GivesByte (.dec m) σ (addrOf σ m) (BitVec.ofNat 8 ((dataOf σ m).toNat + 255)) ∧
    GivesByte (.not m) σ (addrOf σ m) (BitVec.ofNat 8 (255 - (dataOf σ m).toNat))

/-- Each of the sixteen conditional jumps exists in mode REL alone, two bytes and 2 cycles, taken or not, and
completes in every state: P becomes the address of its own opcode plus the signed offset exactly if its flag has the
value tested, and stays at the next instruction otherwise; nothing else changes. The wrap of the target is the spec's
decision D3. -/
def Obligations.ConditionalJumps : Prop :=
  JumpsWhen .jfb 0x10#8 .b false ∧ JumpsWhen .jfc 0x11#8 .c false ∧
  JumpsWhen .jfd 0x12#8 .d false ∧ JumpsWhen .jfn 0x13#8 .n false ∧
  JumpsWhen .jfr 0x14#8 .r false ∧ JumpsWhen .jfu 0x15#8 .u false ∧
  JumpsWhen .jfv 0x16#8 .v false ∧ JumpsWhen .jfz 0x17#8 .z false ∧
  JumpsWhen .jtb 0x18#8 .b true ∧ JumpsWhen .jtc 0x19#8 .c true ∧
  JumpsWhen .jtd 0x1A#8 .d true ∧ JumpsWhen .jtn 0x1B#8 .n true ∧
  JumpsWhen .jtr 0x1C#8 .r true ∧ JumpsWhen .jtu 0x1D#8 .u true ∧
  JumpsWhen .jtv 0x1E#8 .v true ∧ JumpsWhen .jtz 0x1F#8 .z true

/-- Where the R flag is 0, as the invariant says it is in every reachable state, JFR completes with P at its target
whatever the other flags are, exactly as JMP REL does, and JTR completes with P at the next instruction. -/
def Obligations.JfrAlwaysAndJtrNeverJumps : Prop :=
  ∀ (o : Byte) (σ : State), σ.Inv →
    (∃ t, exec (.jfr o) σ = .next t ∧ t.p = σ.p - 2#16 + sext16 o) ∧ exec (.jfr o) σ = exec (.jmp (.rel o)) σ ∧
    exec (.jtr o) σ = .next σ

/-- JMP exists in exactly the modes of its rule, with their opcodes and cycles, and completes in every state: P
becomes the addr the mode computes, and no register, flag or byte of memory changes. -/
def Obligations.JmpGoesToAddr : Prop :=
  FormsAre .jmp [(.rel, 0x58#8, 2), (.abs, 0x59#8, 3), (.abx, 0x5C#8, 3), (.aby, 0x5D#8, 3), (.zpg, 0x5A#8, 2),
    (.zpx, 0x5E#8, 2), (.zpy, 0x5F#8, 2), (.vec, 0x5B#8, 5), (.zvx, 0x7A#8, 4), (.zyv, 0x7B#8, 4)] ∧
  ∀ (m : Operand) (σ : State), ∃ t, exec (.jmp m) σ = .next t ∧ t.p = addrOf σ m ∧ Kept σ t [] [] []

/-- CAL exists in exactly the modes of its rule, with their opcodes and cycles, and completes in every state: the MSB
of P is stored at the stack location of S and the LSB at that of S - 1, S is two lower modulo 256, P becomes the addr
computed before the pushes, and nothing else changes. That P then is the address of the next instruction is the spec's
decision D2. -/
def Obligations.CalPushesTheReturnAddress : Prop :=
  FormsAre .cal [(.abs, 0x71#8, 5), (.abx, 0x74#8, 5), (.aby, 0x75#8, 5), (.zpg, 0x72#8, 4), (.zpx, 0x76#8, 4),
    (.zpy, 0x77#8, 4), (.vec, 0x73#8, 7), (.zvx, 0x78#8, 6), (.zyv, 0x79#8, 6)] ∧
  ∀ (m : Operand) (σ : State), ∃ t, exec (.cal m) σ = .next t ∧ t.p = addrOf σ m ∧
    t.read (stackAddr σ.s) = hi σ.p ∧ t.read (stackAddr (σ.s - 1#8)) = lo σ.p ∧
    t.s.toNat = (σ.s.toNat + 254) % 256 ∧ Kept σ t [.s] [] [stackAddr σ.s, stackAddr (σ.s - 1#8)]

/-- RET in any state that has the memory and the S that CAL left completes with P and S as they were before the CAL, P
the address of the instruction after it. -/
def Obligations.RetReturnsPastTheCal : Prop :=
  ∀ (m : Operand) (σ t τ : State), exec (.cal m) σ = .next t → τ.mem = t.mem → τ.s = t.s →
    ∃ u, exec .ret τ = .next u ∧ u.p = σ.p ∧ u.s = σ.s ∧ Kept τ u [.s] [] []

/-- CLC is the byte $06, 1 cycle; it completes in every state with C = 0 and no other flag, register or byte of memory
changed. -/
def Obligations.ClcClearsC : Prop :=
  FormIs .clc [0x06#8] 1 ∧ ∀ σ : State, ∃ t, exec .clc σ = .next t ∧ t.flag .c = false ∧ t.p = σ.p ∧ Kept σ t [] [.c] []

/-- Each load exists in exactly the modes of its rule, with their opcodes and cycles, and completes in every state:
its register is the byte at addr, N and Z are those of that byte, and no other register, flag or byte of memory
changes. -/
def Obligations.LoadsCopyTheByteAtAddr : Prop :=
  FormsAre .lda [(.imm, 0x30#8, 2), (.abs, 0x31#8, 4), (.abx, 0x34#8, 4), (.aby, 0x35#8, 4), (.zpg, 0x32#8, 3),
    (.zpx, 0x36#8, 3), (.zpy, 0x37#8, 3), (.vec, 0x33#8, 6), (.zvx, 0x66#8, 5), (.zyv, 0x67#8, 5)] ∧
  FormsAre .ldx [(.imm, 0x41#8, 2), (.abs, 0x42#8, 4), (.aby, 0x43#8, 4), (.zpg, 0x44#8, 3), (.zpy, 0x45#8, 3),
    (.vec, 0x46#8, 6), (.zyv, 0x47#8, 5)] ∧
  FormsAre .ldy [(.imm, 0x49#8, 2), (.abs, 0x4A#8, 4), (.abx, 0x4B#8, 4), (.zpg, 0x4C#8, 3), (.zpx, 0x4D#8, 3),
    (.vec, 0x4E#8, 6), (.zvx, 0x4F#8, 5)] ∧
  ∀ (m : Operand) (σ : State), GivesReg (.lda m) σ .a (dataOf σ m) ∧ GivesReg (.ldx m) σ .x (dataOf σ m) ∧
    GivesReg (.ldy m) σ .y (dataOf σ m)

/-- Each store exists in exactly the modes of its rule, with their opcodes and cycles, and completes in every state:
the byte at addr is the register, and no register, flag or other byte of memory changes. -/
def Obligations.StoresChangeTheByteAtAddrAlone : Prop :=
  FormsAre .sta [(.abs, 0x39#8, 4), (.abx, 0x3C#8, 4), (.aby, 0x3D#8, 4), (.zpg, 0x3A#8, 3), (.zpx, 0x3E#8, 3),
    (.zpy, 0x3F#8, 3), (.vec, 0x3B#8, 6), (.zvx, 0x6E#8, 5), (.zyv, 0x6F#8, 5)] ∧
  FormsAre .stx [(.abs, 0x60#8, 4), (.aby, 0x61#8, 4), (.zpg, 0x62#8, 3), (.zpy, 0x63#8, 3), (.vec, 0x64#8, 6),
    (.zyv, 0x65#8, 5)] ∧
  FormsAre .sty [(.abs, 0x68#8, 4), (.abx, 0x69#8, 4), (.zpg, 0x6A#8, 3), (.zpx, 0x6B#8, 3), (.vec, 0x6C#8, 6),
    (.zvx, 0x6D#8, 5)] ∧
  ∀ (m : Operand) (σ : State), Stores (.sta m) σ (addrOf σ m) σ.a ∧ Stores (.stx m) σ (addrOf σ m) σ.x ∧
    Stores (.sty m) σ (addrOf σ m) σ.y

/-- Each push has the byte and the 2 cycles of its rule and completes in every state: the register, F as it stands for
PHF (the spec's decision D28), is stored at the stack location of S, S is one lower modulo 256, and nothing else
changes. -/
def Obligations.PushesStoreAtTheStack : Prop :=
  FormIs .pha [0x20#8] 2 ∧ FormIs .phf [0x21#8] 2 ∧
  FormIs .phx [0x22#8] 2 ∧ FormIs .phy [0x23#8] 2 ∧
  ∀ σ : State, Pushes .pha σ σ.a ∧ Pushes .phf σ σ.f ∧ Pushes .phx σ σ.x ∧ Pushes .phy σ σ.y

/-- Each of the three has the byte and the 2 cycles of its rule and completes in every state: S is one higher modulo
256, the register is the byte at the stack location of the new S, N and Z are those of that byte, and nothing else
changes. -/
def Obligations.PullsLoadFromTheStack : Prop :=
  FormIs .pla [0x24#8] 2 ∧ FormIs .plx [0x26#8] 2 ∧ FormIs .ply [0x27#8] 2 ∧
  ∀ σ : State, Pulls .pla σ .a ∧ Pulls .plx σ .x ∧ Pulls .ply σ .y

/-- PLF and TAF have the bytes and cycles of their rules and complete in every state: every flag but R is the bit of
the pulled byte, or of A, at its place, R is 0 (the spec's decision D6), N and Z are not computed; PLF moves S by one
as a pull does; nothing else changes. -/
def Obligations.PlfAndTafWriteTheWholeOfF : Prop :=
  FormIs .plf [0x25#8] 2 ∧ FormIs .taf [0x28#8] 1 ∧
  ∀ σ : State,
    (∃ t, exec .plf σ = .next t ∧ t.s.toNat = (σ.s.toNat + 1) % 256 ∧
      (∀ fl, fl ≠ .r → t.flag fl = (σ.read (stackAddr t.s)).getLsbD (flagBit fl)) ∧ t.flag .r = false ∧
      t.p = σ.p ∧ Kept σ t [.s] [.b, .c, .d, .n, .r, .u, .v, .z] []) ∧
    (∃ t, exec .taf σ = .next t ∧ (∀ fl, fl ≠ .r → t.flag fl = σ.a.getLsbD (flagBit fl)) ∧ t.flag .r = false ∧
      t.p = σ.p ∧ Kept σ t [] [.b, .c, .d, .n, .r, .u, .v, .z] [])

/-- Each of the six has the byte and the cycle of its rule and completes in every state: the destination is the
source's value, N and Z are those of that value, the source and everything else are unchanged; the transfers to and
from S set N and Z too. -/
def Obligations.TransfersSetNAndZ : Prop :=
  FormIs .tas [0x29#8] 1 ∧ FormIs .tax [0x2A#8] 1 ∧ FormIs .tay [0x2B#8] 1 ∧
  FormIs .tsa [0x2D#8] 1 ∧ FormIs .txa [0x2E#8] 1 ∧ FormIs .tya [0x2F#8] 1 ∧
  ∀ σ : State, GivesReg .tas σ .s σ.a ∧ GivesReg .tax σ .x σ.a ∧ GivesReg .tay σ .y σ.a ∧
    GivesReg .tsa σ .a σ.s ∧ GivesReg .txa σ .a σ.x ∧ GivesReg .tya σ .a σ.y

/-- TFA is the byte $2C, 1 cycle, and completes in every state: A is the old F; N becomes the old Z and Z says that
the old F was $00; nothing else changes. That A receives the old F is an inference the spec marks as its own. -/
def Obligations.TfaCopiesTheOldF : Prop :=
  FormIs .tfa [0x2C#8] 1 ∧
  ∀ σ : State, GivesReg .tfa σ .a σ.f ∧
    ∃ t, exec .tfa σ = .next t ∧ t.flag .n = σ.flag .z ∧ t.flag .z = decide (σ.f = 0x00#8)

/-- Each compare exists in exactly the modes of its rule, with their opcodes and cycles, and completes in every state:
C, V, N and Z are those of the register less the byte at addr with no borrow in, so that C says register >= byte
unsigned, Z that they are equal, and N different from V that the register is less as a signed number; nothing else
changes. C and V after a compare, and that the incoming C plays no part, are the spec's decisions D7, D8 and D9. -/
def Obligations.ComparesShowTheDifference : Prop :=
  FormsAre .cmp [(.imm, 0x50#8, 2), (.abs, 0x51#8, 4), (.abx, 0x54#8, 4), (.aby, 0x55#8, 4), (.zpg, 0x52#8, 3),
    (.zpx, 0x56#8, 3), (.zpy, 0x57#8, 3), (.vec, 0x53#8, 6), (.zvx, 0x7C#8, 5), (.zyv, 0x7D#8, 5)] ∧
  FormsAre .cpx [(.imm, 0x89#8, 2), (.abs, 0x8A#8, 4), (.aby, 0x8B#8, 4), (.zpg, 0x8C#8, 3), (.zpy, 0x8D#8, 3),
    (.vec, 0x8E#8, 6), (.zyv, 0x8F#8, 5)] ∧
  FormsAre .cpy [(.imm, 0x99#8, 2), (.abs, 0x9A#8, 4), (.abx, 0x9B#8, 4), (.zpg, 0x9C#8, 3), (.zpx, 0x9D#8, 3),
    (.vec, 0x9E#8, 6), (.zvx, 0x9F#8, 5)] ∧
  ∀ (m : Operand) (σ : State), ∀ c ∈ [(Instr.cmp m, σ.a), (.cpx m, σ.x), (.cpy m, σ.y)],
    ∃ t, exec c.1 σ = .next t ∧ ShowsDifference t c.2 (dataOf σ m) true ∧
      t.flag .c = decide ((dataOf σ m).toNat ≤ c.2.toNat) ∧ t.flag .z = decide (c.2 = dataOf σ m) ∧
      (t.flag .n != t.flag .v) = decide (c.2.toInt < (dataOf σ m).toInt) ∧
      t.p = σ.p ∧ Kept σ t [] [.c, .n, .v, .z] []

/-- SBC and SUB exist in exactly the modes of their rules, with their opcodes and cycles, and complete in every state:
A is A less the byte at addr, less 1 more for SBC where C was 0, modulo 256; C, V, N and Z are those of that
difference; nothing else changes. C and V after a subtraction are the spec's decisions D7 and D8. -/
def Obligations.SubtractionsLeaveTheDifference : Prop :=
  FormsAre .sbc [(.imm, 0xC8#8, 2), (.abs, 0xC9#8, 4), (.abx, 0xCC#8, 4), (.aby, 0xCD#8, 4), (.zpg, 0xCA#8, 3),
    (.zpx, 0xCE#8, 3), (.zpy, 0xCF#8, 3), (.vec, 0xCB#8, 6), (.zvx, 0xEA#8, 5), (.zyv, 0xEB#8, 5)] ∧
  FormsAre .sub [(.imm, 0xD8#8, 2), (.abs, 0xD9#8, 4), (.abx, 0xDC#8, 4), (.aby, 0xDD#8, 4), (.zpg, 0xDA#8, 3),
    (.zpx, 0xDE#8, 3), (.zpy, 0xDF#8, 3), (.vec, 0xDB#8, 6), (.zvx, 0xEE#8, 5), (.zyv, 0xEF#8, 5)] ∧
  ∀ (m : Operand) (σ : State), ∀ c ∈ [(Instr.sbc m, σ.flag .c), (.sub m, true)],
    ∃ t, exec c.1 σ = .next t ∧ ShowsDifference t σ.a (dataOf σ m) c.2 ∧
      t.a = BitVec.ofInt 8 ((σ.a.toNat : Int) - ((dataOf σ m).toNat : Int) - (1 - (c.2.toNat : Int))) ∧
      t.p = σ.p ∧ Kept σ t [.a] [.c, .n, .v, .z] []

/-- ADC and ADD exist in exactly the modes of their rules, with their opcodes and cycles, and complete in every state:
A is A plus the byte at addr, plus 1 more for ADC where C was 1, modulo 256; C says that the sum exceeds a byte, V
that the signed sum lies outside -128..127, N and Z are those of A; nothing else changes. -/
def Obligations.AdditionsLeaveTheSum : Prop :=
  FormsAre .adc [(.imm, 0xC0#8, 2), (.abs, 0xC1#8, 4), (.abx, 0xC4#8, 4), (.aby, 0xC5#8, 4), (.zpg, 0xC2#8, 3),
    (.zpx, 0xC6#8, 3), (.zpy, 0xC7#8, 3), (.vec, 0xC3#8, 6), (.zvx, 0xE8#8, 5), (.zyv, 0xE9#8, 5)] ∧
  FormsAre .add [(.imm, 0xD0#8, 2), (.abs, 0xD1#8, 4), (.abx, 0xD4#8, 4), (.aby, 0xD5#8, 4), (.zpg, 0xD2#8, 3),
    (.zpx, 0xD6#8, 3), (.zpy, 0xD7#8, 3), (.vec, 0xD3#8, 6), (.zvx, 0xEC#8, 5), (.zyv, 0xED#8, 5)] ∧
  ∀ (m : Operand) (σ : State), ∀ c ∈ [(Instr.adc m, σ.flag .c), (.add m, false)],
    ∃ t, exec c.1 σ = .next t ∧ ShowsSum t σ.a (dataOf σ m) c.2 ∧
      t.a = BitVec.ofNat 8 (σ.a.toNat + (dataOf σ m).toNat + c.2.toNat) ∧
      t.p = σ.p ∧ Kept σ t [.a] [.c, .n, .v, .z] []

/-- For all bytes a and m and either carry in, the subtraction core gives the same result byte, C, V, N and Z as the
addition core on a and the complement of m. Rests on the spec's decisions D7 and D8. -/
def Obligations.SubtractionIsAdditionOfTheComplement : Prop :=
  ∀ (a m : Byte) (cin : Bool), subCore a m cin = addCore a (~~~m) cin

/-- From every state, loading, adding and loading and adding with carry the low and then the high bytes of two words w
and v leaves the low and the high byte of w + v and C set exactly if w + v exceeds 65535; the same with SUB and SBC
leaves those of w - v and C set exactly if v is at most w. The load between the halves keeps C. The second half rests
on the spec's decision D7. -/
def Obligations.CarryChainsComputeWords : Prop :=
  ∀ (σ : State) (w v : Address),
    (∃ t1 t2 t3 t4, exec (.lda (.imm (lo w))) σ = .next t1 ∧ exec (.add (.imm (lo v))) t1 = .next t2 ∧
      exec (.lda (.imm (hi w))) t2 = .next t3 ∧ exec (.adc (.imm (hi v))) t3 = .next t4 ∧
      word t4.a t2.a = w + v ∧ t4.flag .c = decide (65536 ≤ w.toNat + v.toNat)) ∧
    (∃ t1 t2 t3 t4, exec (.lda (.imm (lo w))) σ = .next t1 ∧ exec (.sub (.imm (lo v))) t1 = .next t2 ∧
      exec (.lda (.imm (hi w))) t2 = .next t3 ∧ exec (.sbc (.imm (hi v))) t3 = .next t4 ∧
      word t4.a t2.a = w - v ∧ t4.flag .c = decide (v.toNat ≤ w.toNat))

/-- BOR, XOR, AND and BIT exist in exactly the modes of their rules, with their opcodes and cycles, NTA is the byte
$70, and all complete in every state: A is A or, xor, and the byte at addr, or inverted; BIT writes no register; N and
Z are those of the result, and nothing else changes. -/
def Obligations.LogicOnTheAccumulator : Prop :=
  FormsAre .bor [(.imm, 0xB0#8, 2), (.abs, 0xB1#8, 4), (.abx, 0xB4#8, 4), (.aby, 0xB5#8, 4), (.zpg, 0xB2#8, 3),
    (.zpx, 0xB6#8, 3), (.zpy, 0xB7#8, 3), (.vec, 0xB3#8, 6), (.zvx, 0xE4#8, 5), (.zyv, 0xE5#8, 5)] ∧
  FormsAre .xor [(.imm, 0xB8#8, 2), (.abs, 0xB9#8, 4), (.abx, 0xBC#8, 4), (.aby, 0xBD#8, 4), (.zpg, 0xBA#8, 3),
    (.zpx, 0xBE#8, 3), (.zpy, 0xBF#8, 3), (.vec, 0xBB#8, 6), (.zvx, 0xE6#8, 5), (.zyv, 0xE7#8, 5)] ∧
  FormsAre .and [(.imm, 0xA8#8, 2), (.abs, 0xA9#8, 4), (.abx, 0xAC#8, 4), (.aby, 0xAD#8, 4), (.zpg, 0xAA#8, 3),
    (.zpx, 0xAE#8, 3), (.zpy, 0xAF#8, 3), (.vec, 0xAB#8, 6), (.zvx, 0xE2#8, 5), (.zyv, 0xE3#8, 5)] ∧
  FormsAre .bit [(.imm, 0xA0#8, 2), (.abs, 0xA1#8, 4), (.abx, 0xA4#8, 4), (.aby, 0xA5#8, 4), (.zpg, 0xA2#8, 3),
    (.zpx, 0xA6#8, 3), (.zpy, 0xA7#8, 3), (.vec, 0xA3#8, 6), (.zvx, 0xE0#8, 5), (.zyv, 0xE1#8, 5)] ∧
  FormIs .nta [0x70#8] 1 ∧
  ∀ (m : Operand) (σ : State),
    GivesReg (.bor m) σ .a (σ.a ||| dataOf σ m) ∧ GivesReg (.xor m) σ .a (σ.a ^^^ dataOf σ m) ∧
    GivesReg (.and m) σ .a (σ.a &&& dataOf σ m) ∧ GivesReg .nta σ .a (~~~σ.a) ∧
    ∃ t, exec (.bit m) σ = .next t ∧ ShowsNZ t (σ.a &&& dataOf σ m) ∧ t.p = σ.p ∧ Kept σ t [] [.n, .z] []

/-- SHL and SHR exist in exactly the modes of their rules, SLA and SRA are one byte each, with their opcodes and
cycles, and all complete in every state: a left shift gives twice the byte modulo 256 plus the old C, and C becomes
the old bit 7; a right shift gives half the byte plus 128 times the old C, and C becomes the old bit 0; the result
goes back to the byte at addr, or to A, N and Z are those of the result, and nothing else, V among it, changes. -/
def Obligations.ShiftsRotateThroughC : Prop :=
  FormsAre .shl [(.zpg, 0xF4#8, 4), (.zpx, 0xF5#8, 4), (.abs, 0xF6#8, 5), (.abx, 0xF7#8, 5)] ∧
  FormsAre .shr [(.zpg, 0xF8#8, 4), (.zpx, 0xF9#8, 4), (.abs, 0xFA#8, 5), (.abx, 0xFB#8, 5)] ∧
  FormIs .sla [0x7E#8] 1 ∧ FormIs .sra [0x7F#8] 1 ∧
  ∀ (m : Operand) (σ : State),
    (∃ t, exec (.shl m) σ = .next t ∧
      (t.read (addrOf σ m)).toNat = (dataOf σ m).toNat * 2 % 256 + (σ.flag .c).toNat ∧
      t.flag .c = (dataOf σ m).getLsbD 7 ∧ ShowsNZ t (t.read (addrOf σ m)) ∧ t.p = σ.p ∧
      Kept σ t [] [.c, .n, .z] [addrOf σ m]) ∧
    (∃ t, exec (.shr m) σ = .next t ∧
      (t.read (addrOf σ m)).toNat = (dataOf σ m).toNat / 2 + 128 * (σ.flag .c).toNat ∧
      t.flag .c = (dataOf σ m).getLsbD 0 ∧ ShowsNZ t (t.read (addrOf σ m)) ∧ t.p = σ.p ∧
      Kept σ t [] [.c, .n, .z] [addrOf σ m]) ∧
    (∃ t, exec .sla σ = .next t ∧ t.a.toNat = σ.a.toNat * 2 % 256 + (σ.flag .c).toNat ∧
      t.flag .c = σ.a.getLsbD 7 ∧ ShowsNZ t t.a ∧ t.p = σ.p ∧ Kept σ t [.a] [.c, .n, .z] []) ∧
    (∃ t, exec .sra σ = .next t ∧ t.a.toNat = σ.a.toNat / 2 + 128 * (σ.flag .c).toNat ∧
      t.flag .c = σ.a.getLsbD 0 ∧ ShowsNZ t t.a ∧ t.p = σ.p ∧ Kept σ t [.a] [.c, .n, .z] [])

/-- Nine applications of the left rotation through C, or of the right one, give back the byte and the carry, and a
right rotation undoes a left one. -/
def Obligations.NineRotationsRestore : Prop :=
  ∀ (m : Byte) (c : Bool),
    Nat.repeat (fun o : Byte × Bool => rotateLeft o.1 o.2) 9 (m, c) = (m, c) ∧
    Nat.repeat (fun o : Byte × Bool => rotateRight o.1 o.2) 9 (m, c) = (m, c) ∧
    rotateRight (rotateLeft m c).1 (rotateLeft m c).2 = (m, c)

/-- Each of the three has the byte and the cycle of its rule and completes in every state: its register is 0, N is 0
and Z is 1, and nothing else changes. That opcode $48 is ZRY is the spec's decision D14. -/
def Obligations.ZeroingSetsZ : Prop :=
  FormIs .zra [0x38#8] 1 ∧ FormIs .zrx [0x40#8] 1 ∧ FormIs .zry [0x48#8] 1 ∧
  ∀ σ : State, ∀ c ∈ [(Instr.zra, Reg.a), (.zrx, .x), (.zry, .y)],
    ∃ t, exec c.1 σ = .next t ∧ t.reg c.2 = 0x00#8 ∧ t.flag .n = false ∧ t.flag .z = true ∧ t.p = σ.p ∧
      Kept σ t [c.2] [.n, .z] []
end

