-- ==== Sys2Proof/Laws/State.lean ====
section
/-! SUPPORT. One lemma per field per update of the state, so that no later proof unfolds a record update. -/

namespace Sys2Proof.Machine

section store
variable (σ : State) (b : Address) (v : Byte)
@[simp] theorem State.store_a : (σ.store b v).a = σ.a := rfl
@[simp] theorem State.store_f : (σ.store b v).f = σ.f := rfl
@[simp] theorem State.store_p : (σ.store b v).p = σ.p := rfl
@[simp] theorem State.store_s : (σ.store b v).s = σ.s := rfl
@[simp] theorem State.store_x : (σ.store b v).x = σ.x := rfl
@[simp] theorem State.store_y : (σ.store b v).y = σ.y := rfl
@[simp] theorem State.store_mem : (σ.store b v).mem = Memory.write σ.mem b v := rfl
@[simp] theorem State.store_reqReset : (σ.store b v).reqReset = σ.reqReset := rfl
@[simp] theorem State.store_reqReact : (σ.store b v).reqReact = σ.reqReact := rfl
@[simp] theorem State.store_reqBreakExt : (σ.store b v).reqBreakExt = σ.reqBreakExt := rfl
@[simp] theorem State.store_reqBreakBrk : (σ.store b v).reqBreakBrk = σ.reqBreakBrk := rfl
@[simp] theorem State.store_irqInput : (σ.store b v).irqInput = σ.irqInput := rfl
@[simp] theorem State.store_cycles : (σ.store b v).cycles = σ.cycles := rfl
end store

section push
variable (σ : State) (v : Byte)
@[simp] theorem State.push_a : (σ.push v).a = σ.a := rfl
@[simp] theorem State.push_f : (σ.push v).f = σ.f := rfl
@[simp] theorem State.push_p : (σ.push v).p = σ.p := rfl
@[simp] theorem State.push_s : (σ.push v).s = σ.s - 1#8 := rfl
@[simp] theorem State.push_x : (σ.push v).x = σ.x := rfl
@[simp] theorem State.push_y : (σ.push v).y = σ.y := rfl
@[simp] theorem State.push_mem : (σ.push v).mem = Memory.write σ.mem (stackAddr σ.s) v := rfl
@[simp] theorem State.push_reqReset : (σ.push v).reqReset = σ.reqReset := rfl
@[simp] theorem State.push_reqReact : (σ.push v).reqReact = σ.reqReact := rfl
@[simp] theorem State.push_reqBreakExt : (σ.push v).reqBreakExt = σ.reqBreakExt := rfl
@[simp] theorem State.push_reqBreakBrk : (σ.push v).reqBreakBrk = σ.reqBreakBrk := rfl
@[simp] theorem State.push_irqInput : (σ.push v).irqInput = σ.irqInput := rfl
@[simp] theorem State.push_cycles : (σ.push v).cycles = σ.cycles := rfl
end push

section dropTop
variable (σ : State)
@[simp] theorem State.dropTop_a : σ.dropTop.a = σ.a := rfl
@[simp] theorem State.dropTop_f : σ.dropTop.f = σ.f := rfl
@[simp] theorem State.dropTop_p : σ.dropTop.p = σ.p := rfl
@[simp] theorem State.dropTop_s : σ.dropTop.s = σ.s + 1#8 := rfl
@[simp] theorem State.dropTop_x : σ.dropTop.x = σ.x := rfl
@[simp] theorem State.dropTop_y : σ.dropTop.y = σ.y := rfl
@[simp] theorem State.dropTop_mem : σ.dropTop.mem = σ.mem := rfl
@[simp] theorem State.dropTop_reqReset : σ.dropTop.reqReset = σ.reqReset := rfl
@[simp] theorem State.dropTop_reqReact : σ.dropTop.reqReact = σ.reqReact := rfl
@[simp] theorem State.dropTop_reqBreakExt : σ.dropTop.reqBreakExt = σ.reqBreakExt := rfl
@[simp] theorem State.dropTop_reqBreakBrk : σ.dropTop.reqBreakBrk = σ.reqBreakBrk := rfl
@[simp] theorem State.dropTop_irqInput : σ.dropTop.irqInput = σ.irqInput := rfl
@[simp] theorem State.dropTop_cycles : σ.dropTop.cycles = σ.cycles := rfl
end dropTop

section putF
variable (σ : State) (v : Byte)
@[simp] theorem State.putF_a : (σ.putF v).a = σ.a := rfl
@[simp] theorem State.putF_f : (σ.putF v).f = writeF v := rfl
@[simp] theorem State.putF_p : (σ.putF v).p = σ.p := rfl
@[simp] theorem State.putF_s : (σ.putF v).s = σ.s := rfl
@[simp] theorem State.putF_x : (σ.putF v).x = σ.x := rfl
@[simp] theorem State.putF_y : (σ.putF v).y = σ.y := rfl
@[simp] theorem State.putF_mem : (σ.putF v).mem = σ.mem := rfl
@[simp] theorem State.putF_reqReset : (σ.putF v).reqReset = σ.reqReset := rfl
@[simp] theorem State.putF_reqReact : (σ.putF v).reqReact = σ.reqReact := rfl
@[simp] theorem State.putF_reqBreakExt : (σ.putF v).reqBreakExt = σ.reqBreakExt := rfl
@[simp] theorem State.putF_reqBreakBrk : (σ.putF v).reqBreakBrk = σ.reqBreakBrk := rfl
@[simp] theorem State.putF_irqInput : (σ.putF v).irqInput = σ.irqInput := rfl
@[simp] theorem State.putF_cycles : (σ.putF v).cycles = σ.cycles := rfl
end putF

section pushWord
variable (σ : State) (w : Address)
@[simp] theorem State.pushWord_a : (σ.pushWord w).a = σ.a := rfl
@[simp] theorem State.pushWord_f : (σ.pushWord w).f = σ.f := rfl
@[simp] theorem State.pushWord_p : (σ.pushWord w).p = σ.p := rfl
@[simp] theorem State.pushWord_s : (σ.pushWord w).s = σ.s - 1#8 - 1#8 := rfl
@[simp] theorem State.pushWord_x : (σ.pushWord w).x = σ.x := rfl
@[simp] theorem State.pushWord_y : (σ.pushWord w).y = σ.y := rfl
@[simp] theorem State.pushWord_mem : (σ.pushWord w).mem = Memory.write (Memory.write σ.mem (stackAddr σ.s) (hi w)) (stackAddr (σ.s - 1#8)) (lo w) := rfl
@[simp] theorem State.pushWord_reqReset : (σ.pushWord w).reqReset = σ.reqReset := rfl
@[simp] theorem State.pushWord_reqReact : (σ.pushWord w).reqReact = σ.reqReact := rfl
@[simp] theorem State.pushWord_reqBreakExt : (σ.pushWord w).reqBreakExt = σ.reqBreakExt := rfl
@[simp] theorem State.pushWord_reqBreakBrk : (σ.pushWord w).reqBreakBrk = σ.reqBreakBrk := rfl
@[simp] theorem State.pushWord_irqInput : (σ.pushWord w).irqInput = σ.irqInput := rfl
@[simp] theorem State.pushWord_cycles : (σ.pushWord w).cycles = σ.cycles := rfl
end pushWord

section pullP
variable (σ : State)
@[simp] theorem State.pullP_a : σ.pullP.a = σ.a := rfl
@[simp] theorem State.pullP_f : σ.pullP.f = σ.f := rfl
@[simp] theorem State.pullP_p : σ.pullP.p = word σ.dropTop.top σ.top := rfl
@[simp] theorem State.pullP_s : σ.pullP.s = σ.s + 1#8 + 1#8 := rfl
@[simp] theorem State.pullP_x : σ.pullP.x = σ.x := rfl
@[simp] theorem State.pullP_y : σ.pullP.y = σ.y := rfl
@[simp] theorem State.pullP_mem : σ.pullP.mem = σ.mem := rfl
@[simp] theorem State.pullP_reqReset : σ.pullP.reqReset = σ.reqReset := rfl
@[simp] theorem State.pullP_reqReact : σ.pullP.reqReact = σ.reqReact := rfl
@[simp] theorem State.pullP_reqBreakExt : σ.pullP.reqBreakExt = σ.reqBreakExt := rfl
@[simp] theorem State.pullP_reqBreakBrk : σ.pullP.reqBreakBrk = σ.reqBreakBrk := rfl
@[simp] theorem State.pullP_irqInput : σ.pullP.irqInput = σ.irqInput := rfl
@[simp] theorem State.pullP_cycles : σ.pullP.cycles = σ.cycles := rfl
end pullP

section clearRequests
variable (σ : State)
@[simp] theorem State.clearRequests_a : σ.clearRequests.a = σ.a := rfl
@[simp] theorem State.clearRequests_f : σ.clearRequests.f = σ.f := rfl
@[simp] theorem State.clearRequests_p : σ.clearRequests.p = σ.p := rfl
@[simp] theorem State.clearRequests_s : σ.clearRequests.s = σ.s := rfl
@[simp] theorem State.clearRequests_x : σ.clearRequests.x = σ.x := rfl
@[simp] theorem State.clearRequests_y : σ.clearRequests.y = σ.y := rfl
@[simp] theorem State.clearRequests_mem : σ.clearRequests.mem = σ.mem := rfl
@[simp] theorem State.clearRequests_reqReset : σ.clearRequests.reqReset = false := rfl
@[simp] theorem State.clearRequests_reqReact : σ.clearRequests.reqReact = false := rfl
@[simp] theorem State.clearRequests_reqBreakExt : σ.clearRequests.reqBreakExt = false := rfl
@[simp] theorem State.clearRequests_reqBreakBrk : σ.clearRequests.reqBreakBrk = false := rfl
@[simp] theorem State.clearRequests_irqInput : σ.clearRequests.irqInput = σ.irqInput := rfl
@[simp] theorem State.clearRequests_cycles : σ.clearRequests.cycles = σ.cycles := rfl
end clearRequests

section resetEntry
variable (σ : State)
@[simp] theorem State.resetEntry_a : σ.resetEntry.a = 0x00#8 := rfl
@[simp] theorem State.resetEntry_f : σ.resetEntry.f = 0x00#8 := rfl
@[simp] theorem State.resetEntry_p : σ.resetEntry.p = σ.readWord resetVector := rfl
@[simp] theorem State.resetEntry_s : σ.resetEntry.s = 0x00#8 := rfl
@[simp] theorem State.resetEntry_x : σ.resetEntry.x = 0x00#8 := rfl
@[simp] theorem State.resetEntry_y : σ.resetEntry.y = 0x00#8 := rfl
@[simp] theorem State.resetEntry_mem : σ.resetEntry.mem = σ.mem := rfl
@[simp] theorem State.resetEntry_reqReset : σ.resetEntry.reqReset = σ.reqReset := rfl
@[simp] theorem State.resetEntry_reqReact : σ.resetEntry.reqReact = σ.reqReact := rfl
@[simp] theorem State.resetEntry_reqBreakExt : σ.resetEntry.reqBreakExt = σ.reqBreakExt := rfl
@[simp] theorem State.resetEntry_reqBreakBrk : σ.resetEntry.reqBreakBrk = σ.reqBreakBrk := rfl
@[simp] theorem State.resetEntry_irqInput : σ.resetEntry.irqInput = σ.irqInput := rfl
@[simp] theorem State.resetEntry_cycles : σ.resetEntry.cycles = σ.cycles + 2 := rfl
end resetEntry

section interruptEntry
variable (σ : State) (vec : Address) (byBrk : Bool)
@[simp] theorem State.interruptEntry_a : (σ.interruptEntry vec byBrk).a = σ.a := rfl
@[simp] theorem State.interruptEntry_f : (σ.interruptEntry vec byBrk).f = (if byBrk then setFlag (setFlag σ.f .d true) .b true else setFlag σ.f .d true) := rfl
@[simp] theorem State.interruptEntry_p : (σ.interruptEntry vec byBrk).p = ((σ.pushWord σ.p).push σ.f).readWord vec := rfl
@[simp] theorem State.interruptEntry_s : (σ.interruptEntry vec byBrk).s = σ.s - 1#8 - 1#8 - 1#8 := rfl
@[simp] theorem State.interruptEntry_x : (σ.interruptEntry vec byBrk).x = σ.x := rfl
@[simp] theorem State.interruptEntry_y : (σ.interruptEntry vec byBrk).y = σ.y := rfl
@[simp] theorem State.interruptEntry_mem : (σ.interruptEntry vec byBrk).mem = ((σ.pushWord σ.p).push σ.f).mem := rfl
@[simp] theorem State.interruptEntry_reqReset : (σ.interruptEntry vec byBrk).reqReset = σ.reqReset := rfl
@[simp] theorem State.interruptEntry_reqReact : (σ.interruptEntry vec byBrk).reqReact = σ.reqReact := rfl
@[simp] theorem State.interruptEntry_reqBreakExt : (σ.interruptEntry vec byBrk).reqBreakExt = σ.reqBreakExt := rfl
@[simp] theorem State.interruptEntry_reqBreakBrk : (σ.interruptEntry vec byBrk).reqBreakBrk = σ.reqBreakBrk := rfl
@[simp] theorem State.interruptEntry_irqInput : (σ.interruptEntry vec byBrk).irqInput = σ.irqInput := rfl
@[simp] theorem State.interruptEntry_cycles : (σ.interruptEntry vec byBrk).cycles = σ.cycles + 5 := rfl
end interruptEntry

section returnFromInterrupt
variable (σ : State)
@[simp] theorem State.returnFromInterrupt_a : σ.returnFromInterrupt.a = σ.a := rfl
@[simp] theorem State.returnFromInterrupt_f : σ.returnFromInterrupt.f = writeF σ.top := rfl
@[simp] theorem State.returnFromInterrupt_p : σ.returnFromInterrupt.p = (σ.dropTop.putF σ.top).pullP.p := rfl
@[simp] theorem State.returnFromInterrupt_s : σ.returnFromInterrupt.s = σ.s + 1#8 + 1#8 + 1#8 := rfl
@[simp] theorem State.returnFromInterrupt_x : σ.returnFromInterrupt.x = σ.x := rfl
@[simp] theorem State.returnFromInterrupt_y : σ.returnFromInterrupt.y = σ.y := rfl
@[simp] theorem State.returnFromInterrupt_mem : σ.returnFromInterrupt.mem = σ.mem := rfl
@[simp] theorem State.returnFromInterrupt_reqReset : σ.returnFromInterrupt.reqReset = σ.reqReset := rfl
@[simp] theorem State.returnFromInterrupt_reqReact : σ.returnFromInterrupt.reqReact = σ.reqReact := rfl
@[simp] theorem State.returnFromInterrupt_reqBreakExt : σ.returnFromInterrupt.reqBreakExt = σ.reqBreakExt := rfl
@[simp] theorem State.returnFromInterrupt_reqBreakBrk : σ.returnFromInterrupt.reqBreakBrk = σ.reqBreakBrk := rfl
@[simp] theorem State.returnFromInterrupt_irqInput : σ.returnFromInterrupt.irqInput = σ.irqInput := rfl
@[simp] theorem State.returnFromInterrupt_cycles : σ.returnFromInterrupt.cycles = σ.cycles := rfl
end returnFromInterrupt

section modify
variable (σ : State) (m : Operand) (g : Byte → Byte)
@[simp] theorem State.modify_a : (σ.modify m g).a = σ.a := rfl
@[simp] theorem State.modify_f : (σ.modify m g).f = setNZ σ.f (g (dataOf σ m)) := rfl
@[simp] theorem State.modify_p : (σ.modify m g).p = σ.p := rfl
@[simp] theorem State.modify_s : (σ.modify m g).s = σ.s := rfl
@[simp] theorem State.modify_x : (σ.modify m g).x = σ.x := rfl
@[simp] theorem State.modify_y : (σ.modify m g).y = σ.y := rfl
@[simp] theorem State.modify_mem : (σ.modify m g).mem = Memory.write σ.mem (addrOf σ m) (g (dataOf σ m)) := rfl
@[simp] theorem State.modify_reqReset : (σ.modify m g).reqReset = σ.reqReset := rfl
@[simp] theorem State.modify_reqReact : (σ.modify m g).reqReact = σ.reqReact := rfl
@[simp] theorem State.modify_reqBreakExt : (σ.modify m g).reqBreakExt = σ.reqBreakExt := rfl
@[simp] theorem State.modify_reqBreakBrk : (σ.modify m g).reqBreakBrk = σ.reqBreakBrk := rfl
@[simp] theorem State.modify_irqInput : (σ.modify m g).irqInput = σ.irqInput := rfl
@[simp] theorem State.modify_cycles : (σ.modify m g).cycles = σ.cycles := rfl
end modify

section compare
variable (σ : State) (r : Byte) (m : Operand)
@[simp] theorem State.compare_a : (σ.compare r m).a = σ.a := rfl
@[simp] theorem State.compare_f : (σ.compare r m).f = setCVNZ σ.f (subCore r (dataOf σ m) true) := rfl
@[simp] theorem State.compare_p : (σ.compare r m).p = σ.p := rfl
@[simp] theorem State.compare_s : (σ.compare r m).s = σ.s := rfl
@[simp] theorem State.compare_x : (σ.compare r m).x = σ.x := rfl
@[simp] theorem State.compare_y : (σ.compare r m).y = σ.y := rfl
@[simp] theorem State.compare_mem : (σ.compare r m).mem = σ.mem := rfl
@[simp] theorem State.compare_reqReset : (σ.compare r m).reqReset = σ.reqReset := rfl
@[simp] theorem State.compare_reqReact : (σ.compare r m).reqReact = σ.reqReact := rfl
@[simp] theorem State.compare_reqBreakExt : (σ.compare r m).reqBreakExt = σ.reqBreakExt := rfl
@[simp] theorem State.compare_reqBreakBrk : (σ.compare r m).reqBreakBrk = σ.reqBreakBrk := rfl
@[simp] theorem State.compare_irqInput : (σ.compare r m).irqInput = σ.irqInput := rfl
@[simp] theorem State.compare_cycles : (σ.compare r m).cycles = σ.cycles := rfl
end compare

section putAlu
variable (σ : State) (o : AluOut)
@[simp] theorem State.putAlu_a : (σ.putAlu o).a = o.r := rfl
@[simp] theorem State.putAlu_f : (σ.putAlu o).f = setCVNZ σ.f o := rfl
@[simp] theorem State.putAlu_p : (σ.putAlu o).p = σ.p := rfl
@[simp] theorem State.putAlu_s : (σ.putAlu o).s = σ.s := rfl
@[simp] theorem State.putAlu_x : (σ.putAlu o).x = σ.x := rfl
@[simp] theorem State.putAlu_y : (σ.putAlu o).y = σ.y := rfl
@[simp] theorem State.putAlu_mem : (σ.putAlu o).mem = σ.mem := rfl
@[simp] theorem State.putAlu_reqReset : (σ.putAlu o).reqReset = σ.reqReset := rfl
@[simp] theorem State.putAlu_reqReact : (σ.putAlu o).reqReact = σ.reqReact := rfl
@[simp] theorem State.putAlu_reqBreakExt : (σ.putAlu o).reqBreakExt = σ.reqBreakExt := rfl
@[simp] theorem State.putAlu_reqBreakBrk : (σ.putAlu o).reqBreakBrk = σ.reqBreakBrk := rfl
@[simp] theorem State.putAlu_irqInput : (σ.putAlu o).irqInput = σ.irqInput := rfl
@[simp] theorem State.putAlu_cycles : (σ.putAlu o).cycles = σ.cycles := rfl
end putAlu

section rotateMem
variable (σ : State) (m : Operand) (o : Byte × Bool)
@[simp] theorem State.rotateMem_a : (σ.rotateMem m o).a = σ.a := rfl
@[simp] theorem State.rotateMem_f : (σ.rotateMem m o).f = setShift σ.f o := rfl
@[simp] theorem State.rotateMem_p : (σ.rotateMem m o).p = σ.p := rfl
@[simp] theorem State.rotateMem_s : (σ.rotateMem m o).s = σ.s := rfl
@[simp] theorem State.rotateMem_x : (σ.rotateMem m o).x = σ.x := rfl
@[simp] theorem State.rotateMem_y : (σ.rotateMem m o).y = σ.y := rfl
@[simp] theorem State.rotateMem_mem : (σ.rotateMem m o).mem = Memory.write σ.mem (addrOf σ m) o.1 := rfl
@[simp] theorem State.rotateMem_reqReset : (σ.rotateMem m o).reqReset = σ.reqReset := rfl
@[simp] theorem State.rotateMem_reqReact : (σ.rotateMem m o).reqReact = σ.reqReact := rfl
@[simp] theorem State.rotateMem_reqBreakExt : (σ.rotateMem m o).reqBreakExt = σ.reqBreakExt := rfl
@[simp] theorem State.rotateMem_reqBreakBrk : (σ.rotateMem m o).reqBreakBrk = σ.reqBreakBrk := rfl
@[simp] theorem State.rotateMem_irqInput : (σ.rotateMem m o).irqInput = σ.irqInput := rfl
@[simp] theorem State.rotateMem_cycles : (σ.rotateMem m o).cycles = σ.cycles := rfl
end rotateMem

section rotateA
variable (σ : State) (o : Byte × Bool)
@[simp] theorem State.rotateA_a : (σ.rotateA o).a = o.1 := rfl
@[simp] theorem State.rotateA_f : (σ.rotateA o).f = setShift σ.f o := rfl
@[simp] theorem State.rotateA_p : (σ.rotateA o).p = σ.p := rfl
@[simp] theorem State.rotateA_s : (σ.rotateA o).s = σ.s := rfl
@[simp] theorem State.rotateA_x : (σ.rotateA o).x = σ.x := rfl
@[simp] theorem State.rotateA_y : (σ.rotateA o).y = σ.y := rfl
@[simp] theorem State.rotateA_mem : (σ.rotateA o).mem = σ.mem := rfl
@[simp] theorem State.rotateA_reqReset : (σ.rotateA o).reqReset = σ.reqReset := rfl
@[simp] theorem State.rotateA_reqReact : (σ.rotateA o).reqReact = σ.reqReact := rfl
@[simp] theorem State.rotateA_reqBreakExt : (σ.rotateA o).reqBreakExt = σ.reqBreakExt := rfl
@[simp] theorem State.rotateA_reqBreakBrk : (σ.rotateA o).reqBreakBrk = σ.reqBreakBrk := rfl
@[simp] theorem State.rotateA_irqInput : (σ.rotateA o).irqInput = σ.irqInput := rfl
@[simp] theorem State.rotateA_cycles : (σ.rotateA o).cycles = σ.cycles := rfl
end rotateA

section advance
variable (σ : State) (i : Instr)
@[simp] theorem State.advance_a : (σ.advance i).a = σ.a := rfl
@[simp] theorem State.advance_f : (σ.advance i).f = σ.f := rfl
@[simp] theorem State.advance_p : (σ.advance i).p = σ.p + BitVec.ofNat 16 (instrSize i) := rfl
@[simp] theorem State.advance_s : (σ.advance i).s = σ.s := rfl
@[simp] theorem State.advance_x : (σ.advance i).x = σ.x := rfl
@[simp] theorem State.advance_y : (σ.advance i).y = σ.y := rfl
@[simp] theorem State.advance_mem : (σ.advance i).mem = σ.mem := rfl
@[simp] theorem State.advance_reqReset : (σ.advance i).reqReset = σ.reqReset := rfl
@[simp] theorem State.advance_reqReact : (σ.advance i).reqReact = σ.reqReact := rfl
@[simp] theorem State.advance_reqBreakExt : (σ.advance i).reqBreakExt = σ.reqBreakExt := rfl
@[simp] theorem State.advance_reqBreakBrk : (σ.advance i).reqBreakBrk = σ.reqBreakBrk := rfl
@[simp] theorem State.advance_irqInput : (σ.advance i).irqInput = σ.irqInput := rfl
@[simp] theorem State.advance_cycles : (σ.advance i).cycles = σ.cycles + instrCycles i := rfl
end advance

section setReg
variable (σ : State) (r : Reg) (v : Byte)
@[simp] theorem State.setReg_a : (σ.setReg r v).a = if r = .a then v else σ.a := by cases r <;> rfl
@[simp] theorem State.setReg_f : (σ.setReg r v).f = σ.f := by cases r <;> rfl
@[simp] theorem State.setReg_p : (σ.setReg r v).p = σ.p := by cases r <;> rfl
@[simp] theorem State.setReg_s : (σ.setReg r v).s = if r = .s then v else σ.s := by cases r <;> rfl
@[simp] theorem State.setReg_x : (σ.setReg r v).x = if r = .x then v else σ.x := by cases r <;> rfl
@[simp] theorem State.setReg_y : (σ.setReg r v).y = if r = .y then v else σ.y := by cases r <;> rfl
@[simp] theorem State.setReg_mem : (σ.setReg r v).mem = σ.mem := by cases r <;> rfl
@[simp] theorem State.setReg_reqReset : (σ.setReg r v).reqReset = σ.reqReset := by cases r <;> rfl
@[simp] theorem State.setReg_reqReact : (σ.setReg r v).reqReact = σ.reqReact := by cases r <;> rfl
@[simp] theorem State.setReg_reqBreakExt : (σ.setReg r v).reqBreakExt = σ.reqBreakExt := by cases r <;> rfl
@[simp] theorem State.setReg_reqBreakBrk : (σ.setReg r v).reqBreakBrk = σ.reqBreakBrk := by cases r <;> rfl
@[simp] theorem State.setReg_irqInput : (σ.setReg r v).irqInput = σ.irqInput := by cases r <;> rfl
@[simp] theorem State.setReg_cycles : (σ.setReg r v).cycles = σ.cycles := by cases r <;> rfl
@[simp] theorem State.setReg_reg (q : Reg) : (σ.setReg r v).reg q = if r = q then v else σ.reg q := by
  cases r <;> cases q <;> rfl
end setReg

section setRegNZ
variable (σ : State) (r : Reg) (v : Byte)
@[simp] theorem State.setRegNZ_a : (σ.setRegNZ r v).a = if r = .a then v else σ.a := by cases r <;> rfl
@[simp] theorem State.setRegNZ_f : (σ.setRegNZ r v).f = setNZ σ.f v := rfl
@[simp] theorem State.setRegNZ_p : (σ.setRegNZ r v).p = σ.p := by cases r <;> rfl
@[simp] theorem State.setRegNZ_s : (σ.setRegNZ r v).s = if r = .s then v else σ.s := by cases r <;> rfl
@[simp] theorem State.setRegNZ_x : (σ.setRegNZ r v).x = if r = .x then v else σ.x := by cases r <;> rfl
@[simp] theorem State.setRegNZ_y : (σ.setRegNZ r v).y = if r = .y then v else σ.y := by cases r <;> rfl
@[simp] theorem State.setRegNZ_mem : (σ.setRegNZ r v).mem = σ.mem := by cases r <;> rfl
@[simp] theorem State.setRegNZ_reqReset : (σ.setRegNZ r v).reqReset = σ.reqReset := by cases r <;> rfl
@[simp] theorem State.setRegNZ_reqReact : (σ.setRegNZ r v).reqReact = σ.reqReact := by cases r <;> rfl
@[simp] theorem State.setRegNZ_reqBreakExt : (σ.setRegNZ r v).reqBreakExt = σ.reqBreakExt := by cases r <;> rfl
@[simp] theorem State.setRegNZ_reqBreakBrk : (σ.setRegNZ r v).reqBreakBrk = σ.reqBreakBrk := by cases r <;> rfl
@[simp] theorem State.setRegNZ_irqInput : (σ.setRegNZ r v).irqInput = σ.irqInput := by cases r <;> rfl
@[simp] theorem State.setRegNZ_cycles : (σ.setRegNZ r v).cycles = σ.cycles := by cases r <;> rfl
@[simp] theorem State.setRegNZ_reg (q : Reg) : (σ.setRegNZ r v).reg q = if r = q then v else σ.reg q := by
  cases r <;> cases q <;> rfl
end setRegNZ

section takeInput
variable (σ : State)
@[simp] theorem State.takeInput_a : σ.takeInput.a = σ.a := by
  unfold State.takeInput; split <;> rfl
@[simp] theorem State.takeInput_f : σ.takeInput.f = σ.f := by
  unfold State.takeInput; split <;> rfl
@[simp] theorem State.takeInput_p : σ.takeInput.p = σ.p := by
  unfold State.takeInput; split <;> rfl
@[simp] theorem State.takeInput_s : σ.takeInput.s = σ.s := by
  unfold State.takeInput; split <;> rfl
@[simp] theorem State.takeInput_x : σ.takeInput.x = σ.x := by
  unfold State.takeInput; split <;> rfl
@[simp] theorem State.takeInput_y : σ.takeInput.y = σ.y := by
  unfold State.takeInput; split <;> rfl
@[simp] theorem State.takeInput_mem : σ.takeInput.mem = σ.mem := by
  unfold State.takeInput; split <;> rfl
@[simp] theorem State.takeInput_reqBreakBrk : σ.takeInput.reqBreakBrk = σ.reqBreakBrk := by
  unfold State.takeInput; split <;> rfl
@[simp] theorem State.takeInput_cycles : σ.takeInput.cycles = σ.cycles := by
  unfold State.takeInput; split <;> rfl
end takeInput

section jumpIf
variable (σ : State) (c : Bool) (o : Byte)
@[simp] theorem State.jumpIf_a : (σ.jumpIf c o).a = σ.a := by cases c <;> rfl
@[simp] theorem State.jumpIf_f : (σ.jumpIf c o).f = σ.f := by cases c <;> rfl
@[simp] theorem State.jumpIf_p : (σ.jumpIf c o).p = if c then addrOf σ (.rel o) else σ.p := by
  cases c <;> rfl
@[simp] theorem State.jumpIf_s : (σ.jumpIf c o).s = σ.s := by cases c <;> rfl
@[simp] theorem State.jumpIf_x : (σ.jumpIf c o).x = σ.x := by cases c <;> rfl
@[simp] theorem State.jumpIf_y : (σ.jumpIf c o).y = σ.y := by cases c <;> rfl
@[simp] theorem State.jumpIf_mem : (σ.jumpIf c o).mem = σ.mem := by cases c <;> rfl
@[simp] theorem State.jumpIf_reqReset : (σ.jumpIf c o).reqReset = σ.reqReset := by cases c <;> rfl
@[simp] theorem State.jumpIf_reqReact : (σ.jumpIf c o).reqReact = σ.reqReact := by cases c <;> rfl
@[simp] theorem State.jumpIf_reqBreakExt : (σ.jumpIf c o).reqBreakExt = σ.reqBreakExt := by cases c <;> rfl
@[simp] theorem State.jumpIf_reqBreakBrk : (σ.jumpIf c o).reqBreakBrk = σ.reqBreakBrk := by cases c <;> rfl
@[simp] theorem State.jumpIf_irqInput : (σ.jumpIf c o).irqInput = σ.irqInput := by cases c <;> rfl
@[simp] theorem State.jumpIf_cycles : (σ.jumpIf c o).cycles = σ.cycles := by cases c <;> rfl
end jumpIf

end Sys2Proof.Machine
end

