-- ==== Sys2Proof/Laws/Flags.lean ====
section
/-! SUPPORT. What each flag computation leaves in each flag. -/

namespace Sys2Proof.Machine

/-- A written flag reads back, and the others are as before. -/
theorem getFlag_setFlag (f : Byte) (fl fl' : Flag) (v : Bool) :
    getFlag (setFlag f fl v) fl' = if fl' = fl then v else getFlag f fl' := by
  cases fl <;> cases fl' <;> cases v <;> simp [getFlag, setFlag, flagBit, flagMask]

/-- A write of the whole of F takes every flag from the byte, R apart, which stays 0. -/
theorem getFlag_writeF (v : Byte) (fl : Flag) :
    getFlag (writeF v) fl = if fl = .r then false else getFlag v fl := by
  cases fl <;> simp [getFlag, writeF, flagBit]

/-- `SetNZ` writes N and Z alone. -/
theorem getFlag_setNZ (f r : Byte) (fl : Flag) :
    getFlag (setNZ f r) fl = if fl = .z then r == 0x00#8 else if fl = .n then r.getLsbD 7 else getFlag f fl := by
  simp only [setNZ, getFlag_setFlag]

/-- The flags of an arithmetic core go to C, V, N and Z alone. -/
theorem getFlag_setCVNZ (f : Byte) (o : AluOut) (fl : Flag) :
    getFlag (setCVNZ f o) fl =
      if fl = .z then o.z else if fl = .n then o.n else if fl = .v then o.v else if fl = .c then o.c
      else getFlag f fl := by
  simp only [setCVNZ, getFlag_setFlag]

/-- A rotation writes C, N and Z alone. -/
theorem getFlag_setShift (f : Byte) (o : Byte × Bool) (fl : Flag) :
    getFlag (setShift f o) fl =
      if fl = .z then o.1 == 0x00#8 else if fl = .n then o.1.getLsbD 7 else if fl = .c then o.2
      else getFlag f fl := by
  simp only [setShift, getFlag_setNZ, getFlag_setFlag]

/-- A status byte is its eight flags. -/
theorem eq_of_getFlag {f g : Byte} (h : ∀ fl, getFlag f fl = getFlag g fl) : f = g := by
  apply BitVec.eq_of_getLsbD_eq
  intro i hi
  have hb := h .b; have hc := h .c; have hd := h .d; have hn := h .n
  have hr := h .r; have hu := h .u; have hv := h .v; have hz := h .z
  simp only [getFlag, flagBit] at hb hc hd hn hr hu hv hz
  match i, hi with
  | 0, _ => exact hb
  | 1, _ => exact hc
  | 2, _ => exact hd
  | 3, _ => exact hn
  | 4, _ => exact hr
  | 5, _ => exact hu
  | 6, _ => exact hv
  | 7, _ => exact hz

/-- Bit 7 of a byte says that its value is 128 or more. -/
theorem getLsbD_seven (r : Byte) : r.getLsbD 7 = decide (128 ≤ r.toNat) := by
  have h := BitVec.msb_eq_decide r
  rw [BitVec.msb_eq_getLsbD_last] at h
  simpa using h

end Sys2Proof.Machine
end

