-- ==== Sys2Proof/Laws/Memory.lean ====
section
/-! SUPPORT. Memory: reading after a write, and the canonical form, which every memory operation keeps. -/

namespace Sys2Proof.Machine

/-- What an insertion leaves defined at each address. -/
theorem Memory.lookup_insert (m : Memory) (k : Nat) (v : Byte) (j : Nat) :
    Memory.lookup (Memory.insert m k v) j = if j = k then some v else Memory.lookup m j := by
  induction m with
  | nil => grind [Memory.insert, Memory.lookup]
  | cons c rest ih => grind [Memory.insert, Memory.lookup]

/-- Reading after a write: the byte written, and every other byte as before (20_memory.md R50). -/
theorem Memory.read_write (m : Memory) (a b : Address) (v : Byte) :
    Memory.read (Memory.write m a v) b = if b = a then v else Memory.read m b := by
  simp only [Memory.read, Memory.write, Memory.lookup_insert, BitVec.toNat_inj]
  split <;> rfl

/-- The first address of a memory is at least `lo`. -/
def Memory.startsAt (m : Memory) (lo : Nat) : Prop := ∀ c, m.head? = some c → lo ≤ c.1

/-- The canonical form of a longer list, by its head and its tail. -/
theorem Memory.wf_cons (c : Host.Cell) (rest : Memory) :
    Memory.wf (c :: rest) = true ↔ c.1 < 65536 ∧ Memory.startsAt rest (c.1 + 1) ∧ Memory.wf rest = true := by
  induction rest generalizing c with
  | nil => simp [Memory.wf, Memory.startsAt]
  | cons d rest ih =>
    simp only [Memory.wf, Memory.startsAt, Bool.and_eq_true, decide_eq_true_eq, List.head?_cons,
      Option.some.injEq, forall_eq']
    constructor
    · rintro ⟨h1, h2⟩
      exact ⟨by have := ((ih d).mp h2).1; omega, h1, h2⟩
    · rintro ⟨_, h2, h3⟩
      exact ⟨h2, h3⟩

/-- Inserting keeps a lower bound on the first address. -/
theorem Memory.startsAt_insert {m : Memory} {lo k : Nat} (v : Byte) (h : Memory.startsAt m lo) (hk : lo ≤ k) :
    Memory.startsAt (Memory.insert m k v) lo := by
  cases m with
  | nil => simpa [Memory.insert, Memory.startsAt] using hk
  | cons c rest =>
    unfold Memory.insert
    split
    · simpa [Memory.startsAt] using hk
    · split
      · simpa [Memory.startsAt] using hk
      · simpa [Memory.startsAt] using h

/-- An insertion below the top of the address space keeps the canonical form. -/
theorem Memory.wf_insert {m : Memory} {k : Nat} (v : Byte) (h : Memory.wf m = true) (hk : k < 65536) :
    Memory.wf (Memory.insert m k v) = true := by
  induction m with
  | nil => simp [Memory.insert, Memory.wf, hk]
  | cons c rest ih =>
    obtain ⟨hc, hs, hr⟩ := (Memory.wf_cons c rest).mp h
    unfold Memory.insert
    split
    · next hlt =>
      refine (Memory.wf_cons _ _).mpr ⟨hk, ?_, h⟩
      simpa [Memory.startsAt] using hlt
    · split
      · next heq => exact (Memory.wf_cons _ _).mpr ⟨hk, by simpa [heq] using hs, hr⟩
      · next hge hne =>
        exact (Memory.wf_cons _ _).mpr ⟨hc, Memory.startsAt_insert v hs (by omega), ih hr⟩

/-- A write keeps the canonical form. -/
theorem Memory.wf_write {m : Memory} (a : Address) (v : Byte) (h : Memory.wf m = true) :
    Memory.wf (Memory.write m a v) = true :=
  Memory.wf_insert v h a.isLt

/-- The memory of the power-on state is in canonical form. -/
theorem Memory.wf_reset : Memory.wf State.reset.mem = true := rfl

end Sys2Proof.Machine
end

