-- ==== Sys2Proof/Laws/Ops.lean ====
section
/-! SUPPORT. For each shared operation, what it does to memory, to the registers an instruction can write and to the
flags, said once. The other fields are the rfl lemmas of Laws/State.lean. -/

namespace Sys2Proof.Machine

/-! ## Words and addresses -/

/-- A word is its MSB and its LSB. -/
@[simp] theorem word_hi_lo (w : Address) : word (hi w) (lo w) = w := by
  apply BitVec.eq_of_toNat_eq
  simp only [word, hi, lo, BitVec.toNat_append, BitVec.extractLsb'_toNat, Nat.shiftRight_zero]
  rw [← Nat.shiftLeft_add_eq_or_of_lt (by omega)]
  simp only [Nat.shiftLeft_eq, Nat.shiftRight_eq_div_pow]
  have := w.isLt
  omega

/-- A word as a number: `h * 256 + l` (00_scope.md R7). -/
theorem word_toNat (h l : Byte) : (word h l).toNat = h.toNat * 256 + l.toNat := by
  simp only [word, BitVec.toNat_append]
  rw [← Nat.shiftLeft_add_eq_or_of_lt (by omega), Nat.shiftLeft_eq]

/-- The LSB of a word, as a number. -/
theorem lo_toNat (w : Address) : (lo w).toNat = w.toNat % 256 := by
  simp [lo, BitVec.extractLsb'_toNat]

/-- The MSB of a word, as a number. -/
theorem hi_toNat (w : Address) : (hi w).toNat = w.toNat / 256 := by
  have := w.isLt
  simp only [hi, BitVec.extractLsb'_toNat, Nat.shiftRight_eq_div_pow]
  omega

@[simp] theorem lo_word (h l : Byte) : lo (word h l) = l := by
  apply BitVec.eq_of_toNat_eq
  rw [lo_toNat, word_toNat]
  omega

@[simp] theorem hi_word (h l : Byte) : hi (word h l) = h := by
  apply BitVec.eq_of_toNat_eq
  rw [hi_toNat, word_toNat]
  omega

/-- Different indices name different stack locations. -/
theorem stackAddr_inj {i j : Byte} (h : stackAddr i = stackAddr j) : i = j := by
  have := congrArg lo h
  simpa [stackAddr] using this

/-! ## Memory through the state -/

/-- A store changes the byte at its address and no other. -/
theorem State.read_store (σ : State) (a b : Address) (v : Byte) :
    (σ.store a v).read b = if b = a then v else σ.read b :=
  Memory.read_write σ.mem a b v

/-- A push changes the byte at the stack location S names, and no other. -/
theorem State.read_push (σ : State) (v : Byte) (b : Address) :
    (σ.push v).read b = if b = stackAddr σ.s then v else σ.read b :=
  Memory.read_write σ.mem (stackAddr σ.s) b v

/-- A pushed word lies little-endian in the two locations from S down. -/
theorem State.read_pushWord (σ : State) (w : Address) (b : Address) :
    (σ.pushWord w).read b =
      if b = stackAddr (σ.s - 1#8) then lo w else if b = stackAddr σ.s then hi w else σ.read b := by
  rw [State.pushWord, State.read_push, State.read_push]; rfl

/-- An interrupt entry changes the three stack locations from S down, and no other byte. -/
theorem State.read_interruptEntry (σ : State) (vec : Address) (byBrk : Bool) (b : Address) :
    (σ.interruptEntry vec byBrk).read b =
      if b = stackAddr (σ.s - 1#8 - 1#8) then σ.f
      else if b = stackAddr (σ.s - 1#8) then lo σ.p
      else if b = stackAddr σ.s then hi σ.p
      else σ.read b := by
  have h : (σ.interruptEntry vec byBrk).read b = ((σ.pushWord σ.p).push σ.f).read b := rfl
  rw [h, State.read_push, State.read_pushWord]; rfl

/-- A read-modify-write changes the byte at its operand's address, and no other. -/
theorem State.read_modify (σ : State) (m : Operand) (g : Byte → Byte) (b : Address) :
    (σ.modify m g).read b = if b = addrOf σ m then g (dataOf σ m) else σ.read b :=
  Memory.read_write σ.mem (addrOf σ m) b _

/-- A rotation in memory changes the byte at its operand's address, and no other. -/
theorem State.read_rotateMem (σ : State) (m : Operand) (o : Byte × Bool) (b : Address) :
    (σ.rotateMem m o).read b = if b = addrOf σ m then o.1 else σ.read b :=
  Memory.read_write σ.mem (addrOf σ m) b _

@[simp] theorem State.read_setRegNZ (σ : State) (r : Reg) (v : Byte) (b : Address) :
    (σ.setRegNZ r v).read b = σ.read b := by cases r <;> rfl

@[simp] theorem State.read_putF (σ : State) (v : Byte) (b : Address) : (σ.putF v).read b = σ.read b := rfl
@[simp] theorem State.read_dropTop (σ : State) (b : Address) : σ.dropTop.read b = σ.read b := rfl
@[simp] theorem State.read_returnFromInterrupt (σ : State) (b : Address) :
    σ.returnFromInterrupt.read b = σ.read b := rfl
@[simp] theorem State.read_pullP (σ : State) (b : Address) : σ.pullP.read b = σ.read b := rfl
@[simp] theorem State.read_resetEntry (σ : State) (b : Address) : σ.resetEntry.read b = σ.read b := rfl
@[simp] theorem State.read_clearRequests (σ : State) (b : Address) : σ.clearRequests.read b = σ.read b := rfl
@[simp] theorem State.read_advance (σ : State) (i : Instr) (b : Address) : (σ.advance i).read b = σ.read b := rfl

@[simp] theorem State.read_takeInput (σ : State) (b : Address) : σ.takeInput.read b = σ.read b := by
  simp only [State.read, State.takeInput_mem]

@[simp] theorem State.read_jumpIf (σ : State) (c : Bool) (o : Byte) (b : Address) :
    (σ.jumpIf c o).read b = σ.read b := by simp only [State.read, State.jumpIf_mem]

/-! ## Registers -/

@[simp] theorem State.reg_store (σ : State) (a : Address) (v : Byte) (r : Reg) : (σ.store a v).reg r = σ.reg r := by
  cases r <;> rfl

@[simp] theorem State.reg_putF (σ : State) (v : Byte) (r : Reg) : (σ.putF v).reg r = σ.reg r := by cases r <;> rfl

@[simp] theorem State.reg_modify (σ : State) (m : Operand) (g : Byte → Byte) (r : Reg) :
    (σ.modify m g).reg r = σ.reg r := by cases r <;> rfl

@[simp] theorem State.reg_compare (σ : State) (v : Byte) (m : Operand) (r : Reg) :
    (σ.compare v m).reg r = σ.reg r := by cases r <;> rfl

@[simp] theorem State.reg_rotateMem (σ : State) (m : Operand) (o : Byte × Bool) (r : Reg) :
    (σ.rotateMem m o).reg r = σ.reg r := by cases r <;> rfl

@[simp] theorem State.reg_jumpIf (σ : State) (c : Bool) (o : Byte) (r : Reg) :
    (σ.jumpIf c o).reg r = σ.reg r := by cases c <;> cases r <;> rfl

/-- A push moves S and no other register. -/
theorem State.reg_push (σ : State) (v : Byte) (r : Reg) :
    (σ.push v).reg r = if r = .s then σ.s - 1#8 else σ.reg r := by cases r <;> rfl

/-- A pushed word moves S by two and no other register. -/
theorem State.reg_pushWord (σ : State) (w : Address) (r : Reg) :
    (σ.pushWord w).reg r = if r = .s then σ.s - 1#8 - 1#8 else σ.reg r := by cases r <;> rfl

/-- A pull moves S and no other register. -/
theorem State.reg_dropTop (σ : State) (r : Reg) :
    σ.dropTop.reg r = if r = .s then σ.s + 1#8 else σ.reg r := by cases r <;> rfl

/-- Pulling P moves S by two and no other register. -/
theorem State.reg_pullP (σ : State) (r : Reg) :
    σ.pullP.reg r = if r = .s then σ.s + 1#8 + 1#8 else σ.reg r := by cases r <;> rfl

/-- An interrupt entry moves S by three and no other register. -/
theorem State.reg_interruptEntry (σ : State) (vec : Address) (byBrk : Bool) (r : Reg) :
    (σ.interruptEntry vec byBrk).reg r = if r = .s then σ.s - 1#8 - 1#8 - 1#8 else σ.reg r := by
  cases r <;> rfl

/-- A return from an interrupt moves S by three and no other register. -/
theorem State.reg_returnFromInterrupt (σ : State) (r : Reg) :
    σ.returnFromInterrupt.reg r = if r = .s then σ.s + 1#8 + 1#8 + 1#8 else σ.reg r := by cases r <;> rfl

/-! ## Flags -/

@[simp] theorem State.flag_store (σ : State) (a : Address) (v : Byte) (fl : Flag) :
    (σ.store a v).flag fl = σ.flag fl := rfl
@[simp] theorem State.flag_push (σ : State) (v : Byte) (fl : Flag) : (σ.push v).flag fl = σ.flag fl := rfl
@[simp] theorem State.flag_pushWord (σ : State) (w : Address) (fl : Flag) : (σ.pushWord w).flag fl = σ.flag fl := rfl
@[simp] theorem State.flag_dropTop (σ : State) (fl : Flag) : σ.dropTop.flag fl = σ.flag fl := rfl
@[simp] theorem State.flag_pullP (σ : State) (fl : Flag) : σ.pullP.flag fl = σ.flag fl := rfl
@[simp] theorem State.flag_advance (σ : State) (i : Instr) (fl : Flag) : (σ.advance i).flag fl = σ.flag fl := rfl
@[simp] theorem State.flag_clearRequests (σ : State) (fl : Flag) : σ.clearRequests.flag fl = σ.flag fl := rfl
@[simp] theorem State.flag_takeInput (σ : State) (fl : Flag) : σ.takeInput.flag fl = σ.flag fl := by
  simp only [State.flag, State.takeInput_f]
@[simp] theorem State.flag_jumpIf (σ : State) (c : Bool) (o : Byte) (fl : Flag) :
    (σ.jumpIf c o).flag fl = σ.flag fl := by simp only [State.flag, State.jumpIf_f]

/-- A write of the whole of F: every flag from the byte, R apart. -/
theorem State.flag_putF (σ : State) (v : Byte) (fl : Flag) :
    (σ.putF v).flag fl = if fl = .r then false else getFlag v fl := getFlag_writeF v fl

/-- A return from an interrupt: every flag from the byte on top of the stack, R apart. -/
theorem State.flag_returnFromInterrupt (σ : State) (fl : Flag) :
    σ.returnFromInterrupt.flag fl = if fl = .r then false else getFlag σ.top fl := getFlag_writeF σ.top fl

/-- A result in a register: Z and N from it, no other flag. -/
theorem State.flag_setRegNZ (σ : State) (r : Reg) (v : Byte) (fl : Flag) :
    (σ.setRegNZ r v).flag fl =
      if fl = .z then v == 0x00#8 else if fl = .n then v.getLsbD 7 else σ.flag fl := by
  simp only [State.flag, State.setRegNZ_f, getFlag_setNZ]

/-- A result in memory: Z and N from it, no other flag. -/
theorem State.flag_modify (σ : State) (m : Operand) (g : Byte → Byte) (fl : Flag) :
    (σ.modify m g).flag fl =
      if fl = .z then g (dataOf σ m) == 0x00#8 else if fl = .n then (g (dataOf σ m)).getLsbD 7 else σ.flag fl := by
  simp only [State.flag, State.modify_f, getFlag_setNZ]

/-- A compare: C, V, N and Z from the difference, no other flag. -/
theorem State.flag_compare (σ : State) (r : Byte) (m : Operand) (fl : Flag) :
    (σ.compare r m).flag fl =
      if fl = .z then (subCore r (dataOf σ m) true).z
      else if fl = .n then (subCore r (dataOf σ m) true).n
      else if fl = .v then (subCore r (dataOf σ m) true).v
      else if fl = .c then (subCore r (dataOf σ m) true).c
      else σ.flag fl := by
  simp only [State.flag, State.compare_f, getFlag_setCVNZ]

/-- An arithmetic result: C, V, N and Z from the core, no other flag. -/
theorem State.flag_putAlu (σ : State) (o : AluOut) (fl : Flag) :
    (σ.putAlu o).flag fl =
      if fl = .z then o.z else if fl = .n then o.n else if fl = .v then o.v else if fl = .c then o.c
      else σ.flag fl := by
  simp only [State.flag, State.putAlu_f, getFlag_setCVNZ]

/-- A rotation in memory: C, N and Z, no other flag. -/
theorem State.flag_rotateMem (σ : State) (m : Operand) (o : Byte × Bool) (fl : Flag) :
    (σ.rotateMem m o).flag fl =
      if fl = .z then o.1 == 0x00#8 else if fl = .n then o.1.getLsbD 7 else if fl = .c then o.2
      else σ.flag fl := by
  simp only [State.flag, State.rotateMem_f, getFlag_setShift]

/-- A rotation of A: C, N and Z, no other flag. -/
theorem State.flag_rotateA (σ : State) (o : Byte × Bool) (fl : Flag) :
    (σ.rotateA o).flag fl =
      if fl = .z then o.1 == 0x00#8 else if fl = .n then o.1.getLsbD 7 else if fl = .c then o.2
      else σ.flag fl := by
  simp only [State.flag, State.rotateA_f, getFlag_setShift]

/-- An interrupt entry sets D, sets B where `BRK` asked, and leaves the other flags. -/
theorem State.flag_interruptEntry (σ : State) (vec : Address) (byBrk : Bool) (fl : Flag) :
    (σ.interruptEntry vec byBrk).flag fl =
      if fl = .d then true else if fl = .b then byBrk || σ.flag .b else σ.flag fl := by
  cases byBrk <;> cases fl <;>
    simp [State.flag, State.interruptEntry_f, getFlag_setFlag]

/-! ## The canonical form of memory -/

theorem State.wf_store {σ : State} (a : Address) (v : Byte) (h : Memory.wf σ.mem = true) :
    Memory.wf (σ.store a v).mem = true := Memory.wf_write a v h

theorem State.wf_storeBytes {σ : State} (a : Address) (vs : List Byte) (h : Memory.wf σ.mem = true) :
    Memory.wf (σ.storeBytes a vs).mem = true := by
  induction vs generalizing σ a with
  | nil => exact h
  | cons v rest ih => exact ih (a + 1#16) (State.wf_store a v h)

theorem State.wf_push {σ : State} (v : Byte) (h : Memory.wf σ.mem = true) :
    Memory.wf (σ.push v).mem = true := Memory.wf_write (stackAddr σ.s) v h

theorem State.wf_pushWord {σ : State} (w : Address) (h : Memory.wf σ.mem = true) :
    Memory.wf (σ.pushWord w).mem = true := State.wf_push _ (State.wf_push _ h)

theorem State.wf_interruptEntry {σ : State} (vec : Address) (byBrk : Bool) (h : Memory.wf σ.mem = true) :
    Memory.wf (σ.interruptEntry vec byBrk).mem = true := State.wf_push σ.f (State.wf_pushWord σ.p h)

theorem State.wf_modify {σ : State} (m : Operand) (g : Byte → Byte) (h : Memory.wf σ.mem = true) :
    Memory.wf (σ.modify m g).mem = true := Memory.wf_write _ _ h

theorem State.wf_rotateMem {σ : State} (m : Operand) (o : Byte × Bool) (h : Memory.wf σ.mem = true) :
    Memory.wf (σ.rotateMem m o).mem = true := Memory.wf_write _ _ h

theorem State.wf_placeNext {σ : State} (bytes : List Byte) (h : Memory.wf σ.mem = true) :
    Memory.wf (σ.placeNext bytes).mem = true := by
  unfold State.placeNext
  split
  · exact State.wf_storeBytes _ _ h
  · exact State.wf_storeBytes _ _ (State.wf_storeBytes _ _ h)

/-! ## Step 1 of the instruction cycle -/

/-- Everything step 1 can do: one of four cases, by the requests taken in and by D (60_exceptions.md R203, R204). -/
theorem State.processInterrupts_cases (σ : State) :
    (σ.takeInput.reqReset = true ∧ σ.processInterrupts = σ.takeInput.clearRequests.resetEntry) ∨
    (σ.takeInput.reqReset = false ∧ σ.takeInput.reqReact = true ∧
      σ.processInterrupts = σ.takeInput.clearRequests.interruptEntry reactVector false) ∨
    (σ.takeInput.reqReset = false ∧ σ.takeInput.reqReact = false ∧
      (σ.takeInput.reqBreakExt || σ.reqBreakBrk) = true ∧ σ.flag .d = false ∧
      σ.processInterrupts = σ.takeInput.clearRequests.interruptEntry breakVector σ.reqBreakBrk) ∨
    (σ.takeInput.reqReset = false ∧ σ.takeInput.reqReact = false ∧
      ((σ.takeInput.reqBreakExt || σ.reqBreakBrk) = false ∨ σ.flag .d = true) ∧
      σ.processInterrupts = σ.takeInput.clearRequests) := by
  unfold State.processInterrupts State.select
  simp only [State.takeInput_reqBreakBrk, State.flag_takeInput]
  cases h1 : σ.takeInput.reqReset <;> cases h2 : σ.takeInput.reqReact <;>
    cases h3 : (σ.takeInput.reqBreakExt || σ.reqBreakBrk) <;> cases h4 : σ.flag .d <;> simp

end Sys2Proof.Machine
end

