-- ==== Sys2Proof/Laws/Decode.lean ====
section
/-! SUPPORT. What a cell of the opcode map holds, said once for all 256 cells, and what fetching at P answers. -/

namespace Sys2Proof

/-- Everything a cell of the opcode map can hold: a well-formed instruction whose opcode is the cell's own, whose bytes
after the opcode are the ones the cell was given, and whose mode, size and cycles do not depend on those bytes. -/
theorem opcodeCell_spec (op b : Byte) (w : Address) :
    ∃ i, opcodeCell op b w = some i ∧ i.wf = true ∧ opcodeOf i = some op ∧ instrSize i = lengthOf op ∧
      ((instrSize i = 1 ∧ tailBytes i = []) ∨ (instrSize i = 2 ∧ tailBytes i = [b]) ∨
        (instrSize i = 3 ∧ tailBytes i = [Machine.lo w, Machine.hi w])) ∧
      ∀ c v, ∃ j, opcodeCell op c v = some j ∧ opcodeOf j = some op ∧ instrMode j = instrMode i ∧
        Machine.instrCycles j = Machine.instrCycles i := by
  obtain ⟨k, hk, rfl⟩ : ∃ k, k < 256 ∧ op = BitVec.ofNat 8 k := ⟨op.toNat, op.isLt, by simp⟩
  interval_cases k <;>
    first
    | exact ⟨_, rfl, rfl, rfl, rfl, .inl ⟨rfl, rfl⟩, fun _ _ => ⟨_, rfl, rfl, rfl, rfl⟩⟩
    | exact ⟨_, rfl, rfl, rfl, rfl, .inr (.inl ⟨rfl, rfl⟩), fun _ _ => ⟨_, rfl, rfl, rfl, rfl⟩⟩
    | exact ⟨_, rfl, rfl, rfl, rfl, .inr (.inr ⟨rfl, rfl⟩), fun _ _ => ⟨_, rfl, rfl, rfl, rfl⟩⟩

namespace Machine

theorem State.bytesAt_length (σ : State) (a : Address) (n : Nat) : (σ.bytesAt a n).length = n := by
  induction n generalizing a with
  | zero => rfl
  | succ n ih => simp [State.bytesAt, ih]

/-- Byte `k` of the bytes from an address on is the byte at that address plus `k`. -/
theorem State.bytesAt_getElem (σ : State) (a : Address) (n k : Nat) (h : k < (σ.bytesAt a n).length) :
    (σ.bytesAt a n)[k] = σ.read (a + BitVec.ofNat 16 k) := by
  induction n generalizing a k with
  | zero => simp [State.bytesAt] at h
  | succ n ih =>
    cases k with
    | zero => simp [State.bytesAt]
    | succ k =>
      simp only [State.bytesAt, List.getElem_cons_succ, ih]
      congr 1
      apply BitVec.eq_of_toNat_eq
      simp only [BitVec.toNat_add, BitVec.toNat_ofNat]
      omega

/-- Fetching always answers: a well-formed instruction whose opcode is the byte at P. -/
theorem State.fetch_spec (σ : State) : ∃ i, σ.fetch = .ok i ∧ i.wf = true ∧ opcodeOf i = some (σ.read σ.p) := by
  have hpos : 1 ≤ lengthOf (σ.read σ.p) := by
    obtain ⟨_, _, _, _, h, _⟩ := opcodeCell_spec (σ.read σ.p) 0x00#8 0x0000#16
    omega
  obtain ⟨n, hn⟩ : ∃ n, lengthOf (σ.read σ.p) = n + 1 := ⟨_, (Nat.sub_add_cancel hpos).symm⟩
  unfold State.fetch State.fetchBytes
  rw [hn]
  simp only [State.bytesAt, decode]
  obtain ⟨i, h1, h2, h3, h4, _⟩ := opcodeCell_spec (σ.read σ.p) ((σ.bytesAt (σ.p + 1#16) n).getD 0 0x00#8)
    (word ((σ.bytesAt (σ.p + 1#16) n).getD 1 0x00#8) ((σ.bytesAt (σ.p + 1#16) n).getD 0 0x00#8))
  rw [h1]
  have hlen : instrSize i ≤ (σ.bytesAt (σ.p + 1#16) n).length + 1 := by rw [State.bytesAt_length]; omega
  simp only [hlen, if_true]
  exact ⟨i, rfl, h2, h3⟩

end Machine

end Sys2Proof
end

