-- ==== Sys2Proof/Laws/PerInstr.lean ====
section
/-! SUPPORT. The statement made per instruction: an instruction exists, by WellFormed.lean, exactly where the encoder's
rows of 30_encoding.md R77 give it an opcode, and then its bytes are as many as its size (R82). -/

namespace Sys2Proof

/-- An instruction is well formed exactly if it has an opcode, and then its encoding is as long as its size (R77, R82). -/
def Laws.OpcodeExists.Statement (i : Instr) : Prop :=
  i.wf = (opcodeOf i).isSome ∧ (i.wf = true → (encode i).length = instrSize i)

namespace Laws.OpcodeExists

theorem inv (op : Byte) : Statement (.inv op) := by
  simp only [Statement, Instr.wf, opcodeOf, encode]
  split <;> simp_all [instrSize, instrMode, modeSize, tailBytes]
theorem nop : Statement .nop := ⟨rfl, fun _ => rfl⟩
theorem brk : Statement .brk := ⟨rfl, fun _ => rfl⟩
theorem rti : Statement .rti := ⟨rfl, fun _ => rfl⟩
theorem ret : Statement .ret := ⟨rfl, fun _ => rfl⟩
theorem for_ (b : Byte) : Statement (.for_ b) := ⟨rfl, fun _ => rfl⟩
theorem fnd (b : Byte) : Statement (.fnd b) := ⟨rfl, fun _ => rfl⟩
theorem app : Statement .app := ⟨rfl, fun _ => rfl⟩
theorem amm : Statement .amm := ⟨rfl, fun _ => rfl⟩
theorem spp : Statement .spp := ⟨rfl, fun _ => rfl⟩
theorem smm : Statement .smm := ⟨rfl, fun _ => rfl⟩
theorem xpp : Statement .xpp := ⟨rfl, fun _ => rfl⟩
theorem xmm : Statement .xmm := ⟨rfl, fun _ => rfl⟩
theorem ypp : Statement .ypp := ⟨rfl, fun _ => rfl⟩
theorem ymm : Statement .ymm := ⟨rfl, fun _ => rfl⟩
theorem inc (m : Operand) : Statement (.inc m) := by
  cases m <;> first | exact ⟨rfl, fun _ => rfl⟩ | exact ⟨rfl, fun h => Bool.noConfusion h⟩
theorem dec (m : Operand) : Statement (.dec m) := by
  cases m <;> first | exact ⟨rfl, fun _ => rfl⟩ | exact ⟨rfl, fun h => Bool.noConfusion h⟩
theorem jfb (o : Byte) : Statement (.jfb o) := ⟨rfl, fun _ => rfl⟩
theorem jfc (o : Byte) : Statement (.jfc o) := ⟨rfl, fun _ => rfl⟩
theorem jfd (o : Byte) : Statement (.jfd o) := ⟨rfl, fun _ => rfl⟩
theorem jfn (o : Byte) : Statement (.jfn o) := ⟨rfl, fun _ => rfl⟩
theorem jfr (o : Byte) : Statement (.jfr o) := ⟨rfl, fun _ => rfl⟩
theorem jfu (o : Byte) : Statement (.jfu o) := ⟨rfl, fun _ => rfl⟩
theorem jfv (o : Byte) : Statement (.jfv o) := ⟨rfl, fun _ => rfl⟩
theorem jfz (o : Byte) : Statement (.jfz o) := ⟨rfl, fun _ => rfl⟩
theorem jtb (o : Byte) : Statement (.jtb o) := ⟨rfl, fun _ => rfl⟩
theorem jtc (o : Byte) : Statement (.jtc o) := ⟨rfl, fun _ => rfl⟩
theorem jtd (o : Byte) : Statement (.jtd o) := ⟨rfl, fun _ => rfl⟩
theorem jtn (o : Byte) : Statement (.jtn o) := ⟨rfl, fun _ => rfl⟩
theorem jtr (o : Byte) : Statement (.jtr o) := ⟨rfl, fun _ => rfl⟩
theorem jtu (o : Byte) : Statement (.jtu o) := ⟨rfl, fun _ => rfl⟩
theorem jtv (o : Byte) : Statement (.jtv o) := ⟨rfl, fun _ => rfl⟩
theorem jtz (o : Byte) : Statement (.jtz o) := ⟨rfl, fun _ => rfl⟩
theorem jmp (m : Operand) : Statement (.jmp m) := by
  cases m <;> first | exact ⟨rfl, fun _ => rfl⟩ | exact ⟨rfl, fun h => Bool.noConfusion h⟩
theorem cal (m : Operand) : Statement (.cal m) := by
  cases m <;> first | exact ⟨rfl, fun _ => rfl⟩ | exact ⟨rfl, fun h => Bool.noConfusion h⟩
theorem clc : Statement .clc := ⟨rfl, fun _ => rfl⟩
theorem lda (m : Operand) : Statement (.lda m) := by
  cases m <;> first | exact ⟨rfl, fun _ => rfl⟩ | exact ⟨rfl, fun h => Bool.noConfusion h⟩
theorem ldx (m : Operand) : Statement (.ldx m) := by
  cases m <;> first | exact ⟨rfl, fun _ => rfl⟩ | exact ⟨rfl, fun h => Bool.noConfusion h⟩
theorem ldy (m : Operand) : Statement (.ldy m) := by
  cases m <;> first | exact ⟨rfl, fun _ => rfl⟩ | exact ⟨rfl, fun h => Bool.noConfusion h⟩
theorem sta (m : Operand) : Statement (.sta m) := by
  cases m <;> first | exact ⟨rfl, fun _ => rfl⟩ | exact ⟨rfl, fun h => Bool.noConfusion h⟩
theorem stx (m : Operand) : Statement (.stx m) := by
  cases m <;> first | exact ⟨rfl, fun _ => rfl⟩ | exact ⟨rfl, fun h => Bool.noConfusion h⟩
theorem sty (m : Operand) : Statement (.sty m) := by
  cases m <;> first | exact ⟨rfl, fun _ => rfl⟩ | exact ⟨rfl, fun h => Bool.noConfusion h⟩
theorem pha : Statement .pha := ⟨rfl, fun _ => rfl⟩
theorem phf : Statement .phf := ⟨rfl, fun _ => rfl⟩
theorem phx : Statement .phx := ⟨rfl, fun _ => rfl⟩
theorem phy : Statement .phy := ⟨rfl, fun _ => rfl⟩
theorem pla : Statement .pla := ⟨rfl, fun _ => rfl⟩
theorem plf : Statement .plf := ⟨rfl, fun _ => rfl⟩
theorem plx : Statement .plx := ⟨rfl, fun _ => rfl⟩
theorem ply : Statement .ply := ⟨rfl, fun _ => rfl⟩
theorem taf : Statement .taf := ⟨rfl, fun _ => rfl⟩
theorem tas : Statement .tas := ⟨rfl, fun _ => rfl⟩
theorem tax : Statement .tax := ⟨rfl, fun _ => rfl⟩
theorem tay : Statement .tay := ⟨rfl, fun _ => rfl⟩
theorem tfa : Statement .tfa := ⟨rfl, fun _ => rfl⟩
theorem tsa : Statement .tsa := ⟨rfl, fun _ => rfl⟩
theorem txa : Statement .txa := ⟨rfl, fun _ => rfl⟩
theorem tya : Statement .tya := ⟨rfl, fun _ => rfl⟩
theorem cmp (m : Operand) : Statement (.cmp m) := by
  cases m <;> first | exact ⟨rfl, fun _ => rfl⟩ | exact ⟨rfl, fun h => Bool.noConfusion h⟩
theorem cpx (m : Operand) : Statement (.cpx m) := by
  cases m <;> first | exact ⟨rfl, fun _ => rfl⟩ | exact ⟨rfl, fun h => Bool.noConfusion h⟩
theorem cpy (m : Operand) : Statement (.cpy m) := by
  cases m <;> first | exact ⟨rfl, fun _ => rfl⟩ | exact ⟨rfl, fun h => Bool.noConfusion h⟩
theorem sbc (m : Operand) : Statement (.sbc m) := by
  cases m <;> first | exact ⟨rfl, fun _ => rfl⟩ | exact ⟨rfl, fun h => Bool.noConfusion h⟩
theorem sub (m : Operand) : Statement (.sub m) := by
  cases m <;> first | exact ⟨rfl, fun _ => rfl⟩ | exact ⟨rfl, fun h => Bool.noConfusion h⟩
theorem adc (m : Operand) : Statement (.adc m) := by
  cases m <;> first | exact ⟨rfl, fun _ => rfl⟩ | exact ⟨rfl, fun h => Bool.noConfusion h⟩
theorem add (m : Operand) : Statement (.add m) := by
  cases m <;> first | exact ⟨rfl, fun _ => rfl⟩ | exact ⟨rfl, fun h => Bool.noConfusion h⟩
theorem bor (m : Operand) : Statement (.bor m) := by
  cases m <;> first | exact ⟨rfl, fun _ => rfl⟩ | exact ⟨rfl, fun h => Bool.noConfusion h⟩
theorem xor (m : Operand) : Statement (.xor m) := by
  cases m <;> first | exact ⟨rfl, fun _ => rfl⟩ | exact ⟨rfl, fun h => Bool.noConfusion h⟩
theorem and (m : Operand) : Statement (.and m) := by
  cases m <;> first | exact ⟨rfl, fun _ => rfl⟩ | exact ⟨rfl, fun h => Bool.noConfusion h⟩
theorem bit (m : Operand) : Statement (.bit m) := by
  cases m <;> first | exact ⟨rfl, fun _ => rfl⟩ | exact ⟨rfl, fun h => Bool.noConfusion h⟩
theorem not (m : Operand) : Statement (.not m) := by
  cases m <;> first | exact ⟨rfl, fun _ => rfl⟩ | exact ⟨rfl, fun h => Bool.noConfusion h⟩
theorem nta : Statement .nta := ⟨rfl, fun _ => rfl⟩
theorem shl (m : Operand) : Statement (.shl m) := by
  cases m <;> first | exact ⟨rfl, fun _ => rfl⟩ | exact ⟨rfl, fun h => Bool.noConfusion h⟩
theorem shr (m : Operand) : Statement (.shr m) := by
  cases m <;> first | exact ⟨rfl, fun _ => rfl⟩ | exact ⟨rfl, fun h => Bool.noConfusion h⟩
theorem sla : Statement .sla := ⟨rfl, fun _ => rfl⟩
theorem sra : Statement .sra := ⟨rfl, fun _ => rfl⟩
theorem zra : Statement .zra := ⟨rfl, fun _ => rfl⟩
theorem zrx : Statement .zrx := ⟨rfl, fun _ => rfl⟩
theorem zry : Statement .zry := ⟨rfl, fun _ => rfl⟩

end Laws.OpcodeExists

end Sys2Proof
end

