-- ==== Sys2Proof/Tests/Slice0.lean ====
section
/-! SUPPORT. Tests. The words are written out from the encodings of 30_encoding.md R77; the one-step tests are vectors of
95_test_vectors.md, whose number each name carries; each obligation with hypotheses has a witness that meets them. -/

namespace Sys2Proof.Tests

open Sys2Proof.Machine

/-! ## Helpers -/

/-- The state the vectors start from: every register 0, P = `$0200`, nothing requested. -/
def start : State := { State.reset with p := 0x0200#16, reqReset := false }

/-- `σ` with an instruction's bytes at P. -/
def ready (bytes : List Byte) (σ : State) : State := σ.storeBytes σ.p bytes

/-- One step from `σ` with these bytes at P gives a next state that passes the check. -/
def after (bytes : List Byte) (σ : State) (check : State → Bool) : Bool :=
  match step (ready bytes σ) with
  | .next t => check t
  | _ => false

/-- One step from `σ` with these bytes at P faults with this opcode and address. -/
def faults (bytes : List Byte) (σ : State) (op : Byte) (ia : Address) : Bool :=
  match step (ready bytes σ) with
  | .fault (.invalidOpcode o a) => o == op && a == ia
  | _ => false

/-- The vectors of section 2.9: BREAK handler `$0300`, REACT handler `$0310`, RESET handler `$0200`. -/
def vectors : Memory :=
  [(0xFFFA, 0x00#8), (0xFFFB, 0x03#8), (0xFFFC, 0x10#8), (0xFFFD, 0x03#8), (0xFFFE, 0x00#8), (0xFFFF, 0x02#8)]

/-- An operand of each mode. -/
def operands : List Operand :=
  [.imm 0#8, .abs 0#16, .abx 0#16, .aby 0#16, .rel 0#8, .zpg 0#8, .zpx 0#8, .zpy 0#8, .vec 0#16, .zvx 0#8, .zyv 0#8]

/-- The modes in which an instruction exists are exactly these. -/
def existsIn (mk : Operand → Instr) (modes : List Mode) : Bool :=
  operands.all fun m => (mk m).wf == decide (m.mode ∈ modes)

/-! ## WellFormed: each check refuses an ill-formed term, the modes being those with an opcode in R77 -/

theorem test_wf_inv_refuses_other_opcodes : (Instr.inv 0x01#8).wf = false ∧ (Instr.inv 0xFB#8).wf = false := by decide
theorem test_wf_inv_admits_its_five :
    ([0x00#8, 0xFC#8, 0xFD#8, 0xFE#8, 0xFF#8].all fun op => (Instr.inv op).wf) = true := by decide
theorem test_wf_inc : (Instr.inc (.imm 0#8)).wf = false ∧
    existsIn .inc [.abs, .abx, .aby, .zpg, .zpx, .zpy, .vec, .zvx, .zyv] = true := by decide
theorem test_wf_dec : (Instr.dec (.imm 0#8)).wf = false ∧
    existsIn .dec [.abs, .abx, .aby, .zpg, .zpx, .zpy, .vec, .zvx, .zyv] = true := by decide
theorem test_wf_jmp : (Instr.jmp (.imm 0#8)).wf = false ∧
    existsIn .jmp [.rel, .abs, .abx, .aby, .zpg, .zpx, .zpy, .vec, .zvx, .zyv] = true := by decide
theorem test_wf_cal : (Instr.cal (.imm 0#8)).wf = false ∧
    existsIn .cal [.abs, .abx, .aby, .zpg, .zpx, .zpy, .vec, .zvx, .zyv] = true := by decide
theorem test_wf_lda : (Instr.lda (.rel 0#8)).wf = false ∧
    existsIn .lda [.imm, .abs, .abx, .aby, .zpg, .zpx, .zpy, .vec, .zvx, .zyv] = true := by decide
theorem test_wf_ldx : (Instr.ldx (.abx 0#16)).wf = false ∧
    existsIn .ldx [.imm, .abs, .aby, .zpg, .zpy, .vec, .zyv] = true := by decide
theorem test_wf_ldy : (Instr.ldy (.aby 0#16)).wf = false ∧
    existsIn .ldy [.imm, .abs, .abx, .zpg, .zpx, .vec, .zvx] = true := by decide
theorem test_wf_sta : (Instr.sta (.imm 0#8)).wf = false ∧
    existsIn .sta [.abs, .abx, .aby, .zpg, .zpx, .zpy, .vec, .zvx, .zyv] = true := by decide
theorem test_wf_stx : (Instr.stx (.imm 0#8)).wf = false ∧
    existsIn .stx [.abs, .aby, .zpg, .zpy, .vec, .zyv] = true := by decide
theorem test_wf_sty : (Instr.sty (.imm 0#8)).wf = false ∧
    existsIn .sty [.abs, .abx, .zpg, .zpx, .vec, .zvx] = true := by decide
theorem test_wf_cmp : (Instr.cmp (.rel 0#8)).wf = false ∧
    existsIn .cmp [.imm, .abs, .abx, .aby, .zpg, .zpx, .zpy, .vec, .zvx, .zyv] = true := by decide
theorem test_wf_cpx : (Instr.cpx (.abx 0#16)).wf = false ∧
    existsIn .cpx [.imm, .abs, .aby, .zpg, .zpy, .vec, .zyv] = true := by decide
theorem test_wf_cpy : (Instr.cpy (.aby 0#16)).wf = false ∧
    existsIn .cpy [.imm, .abs, .abx, .zpg, .zpx, .vec, .zvx] = true := by decide
theorem test_wf_sbc : (Instr.sbc (.rel 0#8)).wf = false ∧
    existsIn .sbc [.imm, .abs, .abx, .aby, .zpg, .zpx, .zpy, .vec, .zvx, .zyv] = true := by decide
theorem test_wf_sub : (Instr.sub (.rel 0#8)).wf = false ∧
    existsIn .sub [.imm, .abs, .abx, .aby, .zpg, .zpx, .zpy, .vec, .zvx, .zyv] = true := by decide
theorem test_wf_adc : (Instr.adc (.rel 0#8)).wf = false ∧
    existsIn .adc [.imm, .abs, .abx, .aby, .zpg, .zpx, .zpy, .vec, .zvx, .zyv] = true := by decide
theorem test_wf_add : (Instr.add (.rel 0#8)).wf = false ∧
    existsIn .add [.imm, .abs, .abx, .aby, .zpg, .zpx, .zpy, .vec, .zvx, .zyv] = true := by decide
theorem test_wf_bor : (Instr.bor (.rel 0#8)).wf = false ∧
    existsIn .bor [.imm, .abs, .abx, .aby, .zpg, .zpx, .zpy, .vec, .zvx, .zyv] = true := by decide
theorem test_wf_xor : (Instr.xor (.rel 0#8)).wf = false ∧
    existsIn .xor [.imm, .abs, .abx, .aby, .zpg, .zpx, .zpy, .vec, .zvx, .zyv] = true := by decide
theorem test_wf_and : (Instr.and (.rel 0#8)).wf = false ∧
    existsIn .and [.imm, .abs, .abx, .aby, .zpg, .zpx, .zpy, .vec, .zvx, .zyv] = true := by decide
theorem test_wf_bit : (Instr.bit (.rel 0#8)).wf = false ∧
    existsIn .bit [.imm, .abs, .abx, .aby, .zpg, .zpx, .zpy, .vec, .zvx, .zyv] = true := by decide
theorem test_wf_not : (Instr.not (.imm 0#8)).wf = false ∧
    existsIn .not [.zpg, .zpx, .abs, .abx] = true := by decide
theorem test_wf_shl : (Instr.shl (.imm 0#8)).wf = false ∧
    existsIn .shl [.zpg, .zpx, .abs, .abx] = true := by decide
theorem test_wf_shr : (Instr.shr (.imm 0#8)).wf = false ∧
    existsIn .shr [.zpg, .zpx, .abs, .abx] = true := by decide

/-! ## Decode: every constructor, from a word written out; the first of each family bit by bit -/

theorem test_decode_system :
    decode [0b11111100#8, 0x99#8] = .ok (.inv 0xFC#8, [0x99#8]) ∧
    decode [0x07#8, 0x99#8] = .ok (.nop, [0x99#8]) ∧
    decode [0x01#8, 0x99#8] = .ok (.brk, [0x99#8]) ∧
    decode [0x02#8, 0x99#8] = .ok (.rti, [0x99#8]) ∧
    decode [0x03#8, 0x99#8] = .ok (.ret, [0x99#8]) ∧
    decode [0x04#8, 0xFE#8, 0x99#8] = .ok (.for_ 0xFE#8, [0x99#8]) ∧
    decode [0x05#8, 0xFE#8, 0x99#8] = .ok (.fnd 0xFE#8, [0x99#8]) := by decide
theorem test_decode_increments :
    decode [0b00001000#8, 0x99#8] = .ok (.app, [0x99#8]) ∧
    decode [0x09#8, 0x99#8] = .ok (.amm, [0x99#8]) ∧
    decode [0x0A#8, 0x99#8] = .ok (.spp, [0x99#8]) ∧
    decode [0x0B#8, 0x99#8] = .ok (.smm, [0x99#8]) ∧
    decode [0x0C#8, 0x99#8] = .ok (.xpp, [0x99#8]) ∧
    decode [0x0D#8, 0x99#8] = .ok (.xmm, [0x99#8]) ∧
    decode [0x0E#8, 0x99#8] = .ok (.ypp, [0x99#8]) ∧
    decode [0x0F#8, 0x99#8] = .ok (.ymm, [0x99#8]) ∧
    decode [0x88#8, 0xFE#8, 0x99#8] = .ok (.inc (.zyv 0xFE#8), [0x99#8]) ∧
    decode [0x94#8, 0xFE#8, 0x99#8] = .ok (.dec (.zpx 0xFE#8), [0x99#8]) := by decide
theorem test_decode_jumps_if_false :
    decode [0b00010000#8, 0xFE#8, 0x99#8] = .ok (.jfb 0xFE#8, [0x99#8]) ∧
    decode [0x11#8, 0xFE#8, 0x99#8] = .ok (.jfc 0xFE#8, [0x99#8]) ∧
    decode [0x12#8, 0xFE#8, 0x99#8] = .ok (.jfd 0xFE#8, [0x99#8]) ∧
    decode [0x13#8, 0xFE#8, 0x99#8] = .ok (.jfn 0xFE#8, [0x99#8]) ∧
    decode [0x14#8, 0xFE#8, 0x99#8] = .ok (.jfr 0xFE#8, [0x99#8]) ∧
    decode [0x15#8, 0xFE#8, 0x99#8] = .ok (.jfu 0xFE#8, [0x99#8]) ∧
    decode [0x16#8, 0xFE#8, 0x99#8] = .ok (.jfv 0xFE#8, [0x99#8]) ∧
    decode [0x17#8, 0xFE#8, 0x99#8] = .ok (.jfz 0xFE#8, [0x99#8]) := by decide
theorem test_decode_jumps_if_true :
    decode [0b00011000#8, 0xFE#8, 0x99#8] = .ok (.jtb 0xFE#8, [0x99#8]) ∧
    decode [0x19#8, 0xFE#8, 0x99#8] = .ok (.jtc 0xFE#8, [0x99#8]) ∧
    decode [0x1A#8, 0xFE#8, 0x99#8] = .ok (.jtd 0xFE#8, [0x99#8]) ∧
    decode [0x1B#8, 0xFE#8, 0x99#8] = .ok (.jtn 0xFE#8, [0x99#8]) ∧
    decode [0x1C#8, 0xFE#8, 0x99#8] = .ok (.jtr 0xFE#8, [0x99#8]) ∧
    decode [0x1D#8, 0xFE#8, 0x99#8] = .ok (.jtu 0xFE#8, [0x99#8]) ∧
    decode [0x1E#8, 0xFE#8, 0x99#8] = .ok (.jtv 0xFE#8, [0x99#8]) ∧
    decode [0x1F#8, 0xFE#8, 0x99#8] = .ok (.jtz 0xFE#8, [0x99#8]) := by decide
theorem test_decode_control :
    decode [0b01011101#8, 0x34#8, 0x12#8, 0x99#8] = .ok (.jmp (.aby 0x1234#16), [0x99#8]) ∧
    decode [0x71#8, 0x34#8, 0x12#8, 0x99#8] = .ok (.cal (.abs 0x1234#16), [0x99#8]) ∧
    decode [0x06#8, 0x99#8] = .ok (.clc, [0x99#8]) := by decide
theorem test_decode_loads_and_stores :
    decode [0b00110111#8, 0xFE#8, 0x99#8] = .ok (.lda (.zpy 0xFE#8), [0x99#8]) ∧
    decode [0x41#8, 0xFE#8, 0x99#8] = .ok (.ldx (.imm 0xFE#8), [0x99#8]) ∧
    decode [0x4E#8, 0x34#8, 0x12#8, 0x99#8] = .ok (.ldy (.vec 0x1234#16), [0x99#8]) ∧
    decode [0x3E#8, 0xFE#8, 0x99#8] = .ok (.sta (.zpx 0xFE#8), [0x99#8]) ∧
    decode [0x60#8, 0x34#8, 0x12#8, 0x99#8] = .ok (.stx (.abs 0x1234#16), [0x99#8]) ∧
    decode [0x6D#8, 0xFE#8, 0x99#8] = .ok (.sty (.zvx 0xFE#8), [0x99#8]) := by decide
theorem test_decode_pushes_and_pulls :
    decode [0b00100000#8, 0x99#8] = .ok (.pha, [0x99#8]) ∧
    decode [0x21#8, 0x99#8] = .ok (.phf, [0x99#8]) ∧
    decode [0x22#8, 0x99#8] = .ok (.phx, [0x99#8]) ∧
    decode [0x23#8, 0x99#8] = .ok (.phy, [0x99#8]) ∧
    decode [0x24#8, 0x99#8] = .ok (.pla, [0x99#8]) ∧
    decode [0x25#8, 0x99#8] = .ok (.plf, [0x99#8]) ∧
    decode [0x26#8, 0x99#8] = .ok (.plx, [0x99#8]) ∧
    decode [0x27#8, 0x99#8] = .ok (.ply, [0x99#8]) := by decide
theorem test_decode_transfers :
    decode [0b00101000#8, 0x99#8] = .ok (.taf, [0x99#8]) ∧
    decode [0x29#8, 0x99#8] = .ok (.tas, [0x99#8]) ∧
    decode [0x2A#8, 0x99#8] = .ok (.tax, [0x99#8]) ∧
    decode [0x2B#8, 0x99#8] = .ok (.tay, [0x99#8]) ∧
    decode [0x2C#8, 0x99#8] = .ok (.tfa, [0x99#8]) ∧
    decode [0x2D#8, 0x99#8] = .ok (.tsa, [0x99#8]) ∧
    decode [0x2E#8, 0x99#8] = .ok (.txa, [0x99#8]) ∧
    decode [0x2F#8, 0x99#8] = .ok (.tya, [0x99#8]) := by decide
theorem test_decode_compares :
    decode [0b01010110#8, 0xFE#8, 0x99#8] = .ok (.cmp (.zpx 0xFE#8), [0x99#8]) ∧
    decode [0x8B#8, 0x34#8, 0x12#8, 0x99#8] = .ok (.cpx (.aby 0x1234#16), [0x99#8]) ∧
    decode [0x99#8, 0xFE#8, 0x99#8] = .ok (.cpy (.imm 0xFE#8), [0x99#8]) := by decide
theorem test_decode_arithmetic :
    decode [0b11101010#8, 0xFE#8, 0x99#8] = .ok (.sbc (.zvx 0xFE#8), [0x99#8]) ∧
    decode [0xDD#8, 0x34#8, 0x12#8, 0x99#8] = .ok (.sub (.aby 0x1234#16), [0x99#8]) ∧
    decode [0xE8#8, 0xFE#8, 0x99#8] = .ok (.adc (.zvx 0xFE#8), [0x99#8]) ∧
    decode [0xD5#8, 0x34#8, 0x12#8, 0x99#8] = .ok (.add (.aby 0x1234#16), [0x99#8]) := by decide
theorem test_decode_logic :
    decode [0b10110001#8, 0x34#8, 0x12#8, 0x99#8] = .ok (.bor (.abs 0x1234#16), [0x99#8]) ∧
    decode [0xBF#8, 0xFE#8, 0x99#8] = .ok (.xor (.zpy 0xFE#8), [0x99#8]) ∧
    decode [0xA9#8, 0x34#8, 0x12#8, 0x99#8] = .ok (.and (.abs 0x1234#16), [0x99#8]) ∧
    decode [0xA7#8, 0xFE#8, 0x99#8] = .ok (.bit (.zpy 0xFE#8), [0x99#8]) ∧
    decode [0xF3#8, 0x34#8, 0x12#8, 0x99#8] = .ok (.not (.abx 0x1234#16), [0x99#8]) ∧
    decode [0x70#8, 0x99#8] = .ok (.nta, [0x99#8]) := by decide
theorem test_decode_shifts :
    decode [0b11110110#8, 0x34#8, 0x12#8, 0x99#8] = .ok (.shl (.abs 0x1234#16), [0x99#8]) ∧
    decode [0xFB#8, 0x34#8, 0x12#8, 0x99#8] = .ok (.shr (.abx 0x1234#16), [0x99#8]) ∧
    decode [0x7E#8, 0x99#8] = .ok (.sla, [0x99#8]) ∧
    decode [0x7F#8, 0x99#8] = .ok (.sra, [0x99#8]) := by decide
theorem test_decode_zeroing :
    decode [0b00111000#8, 0x99#8] = .ok (.zra, [0x99#8]) ∧
    decode [0x40#8, 0x99#8] = .ok (.zrx, [0x99#8]) ∧
    decode [0x48#8, 0x99#8] = .ok (.zry, [0x99#8]) := by decide

theorem test_decode_no_bytes : decode [] = .error .noBytes := by decide
theorem test_decode_truncated : decode [0x31#8, 0x34#8] = .error (.truncated 0x31#8) := by decide
/-- The table numbers the second byte bits 15..8 and the third 23..16. -/
theorem test_table_word : decodeTableWord 24 0x123431 = some (.lda (.abs 0x1234#16)) ∧
    decodeTableWord 8 0x31 = some (.lda (.abs 0x0000#16)) ∧ decodeTableWord 8 0x48 = some .zry := by decide
theorem test_encode_lays_the_lsb_first : encode (.jmp (.vec 0xABCD#16)) = [0x5B#8, 0xCD#8, 0xAB#8] := by decide
theorem test_encode_of_an_ill_formed_term_is_empty : encode (.ldx (.abx 0x1234#16)) = [] := by decide

/-! ## One step: at most two vectors per instruction -/

theorem test_inv_V1 : faults [0x00#8] start 0x00#8 0x0200#16 = true := by decide
theorem test_inv_V3 : faults [0xFF#8] start 0xFF#8 0x0200#16 = true := by decide
theorem test_nop_V4 : after [0x07#8] { start with a := 0x12#8, f := 0xEF#8 }
    (fun t => t.p == 0x0201#16 && t.f == 0xEF#8) = true := by decide
theorem test_brk_V5 : after [0x01#8] { start with s := 0xFF#8 }
    (fun t => t.p == 0x0201#16 && t.f == 0x00#8 && t.reqBreakBrk) = true := by decide
theorem test_rti_V7 : after [0x02#8] { start with f := 0x04#8, s := 0xFC#8, mem := [(0x01FD, 0xB2#8), (0x01FE, 0x34#8), (0x01FF, 0x12#8)] }
    (fun t => t.s == 0xFF#8 && t.f == 0xA2#8 && t.p == 0x1234#16) = true := by decide
theorem test_rti_V8 : after [0x02#8] { start with s := 0xFE#8, mem := [(0x0100, 0x00#8), (0x0101, 0x80#8), (0x01FF, 0x01#8)] }
    (fun t => t.s == 0x01#8 && t.f == 0x01#8 && t.p == 0x8000#16) = true := by decide
theorem test_ret_V10 : after [0x03#8] { start with s := 0xFF#8, mem := [(0x0100, 0x34#8), (0x0101, 0x12#8)] }
    (fun t => t.s == 0x01#8 && t.p == 0x1234#16 && t.f == 0x00#8) = true := by decide
theorem test_for_V11 : after [0x04#8, 0x82#8] { start with f := 0x01#8 }
    (fun t => t.f == 0x83#8) = true := by decide
theorem test_for_V12 : after [0x04#8, 0x10#8] { start with f := 0x00#8 }
    (fun t => t.f == 0x00#8) = true := by decide
theorem test_fnd_V14 : after [0x05#8, 0xFB#8] { start with f := 0xCF#8 }
    (fun t => t.f == 0xCB#8) = true := by decide
theorem test_clc_V16 : after [0x06#8] { start with f := 0x83#8 }
    (fun t => t.f == 0x81#8) = true := by decide
theorem test_app_V18 : after [0x08#8] { start with a := 0xFF#8, f := 0x02#8 }
    (fun t => t.a == 0x00#8 && t.f == 0x82#8) = true := by decide
theorem test_app_V19 : after [0x08#8] { start with a := 0x7F#8 }
    (fun t => t.a == 0x80#8 && t.f == 0x08#8) = true := by decide
theorem test_amm_V20 : after [0x09#8] { start with a := 0x00#8 }
    (fun t => t.a == 0xFF#8 && t.f == 0x08#8) = true := by decide
theorem test_amm_V21 : after [0x09#8] { start with a := 0x01#8, f := 0x02#8 }
    (fun t => t.a == 0x00#8 && t.f == 0x82#8) = true := by decide
theorem test_spp_V22 : after [0x0A#8] { start with s := 0xFF#8 }
    (fun t => t.s == 0x00#8 && t.f == 0x80#8) = true := by decide
theorem test_smm_V24 : after [0x0B#8] { start with s := 0x00#8 }
    (fun t => t.s == 0xFF#8 && t.f == 0x08#8) = true := by decide
theorem test_xpp_V25 : after [0x0C#8] { start with x := 0xFF#8 }
    (fun t => t.x == 0x00#8 && t.f == 0x80#8) = true := by decide
theorem test_xmm_V26 : after [0x0D#8] { start with x := 0x01#8 }
    (fun t => t.x == 0x00#8 && t.f == 0x80#8) = true := by decide
theorem test_ypp_V28 : after [0x0E#8] { start with y := 0x7F#8 }
    (fun t => t.y == 0x80#8 && t.f == 0x08#8) = true := by decide
theorem test_ymm_V29 : after [0x0F#8] { start with f := 0x08#8, y := 0x80#8 }
    (fun t => t.y == 0x7F#8 && t.f == 0x00#8) = true := by decide
theorem test_inc_V32 : after [0x84#8, 0xF0#8] { start with x := 0x20#8, mem := [(0x0010, 0x00#8)] }
    (fun t => t.f == 0x00#8 && t.read 0x0010#16 == 0x01#8) = true := by decide
theorem test_inc_V33 : after [0x88#8, 0x10#8] { start with y := 0x02#8, mem := [(0x0012, 0x00#8), (0x0013, 0x30#8), (0x3000, 0x41#8)] }
    (fun t => t.f == 0x00#8 && t.read 0x3000#16 == 0x42#8) = true := by decide
theorem test_dec_V34 : after [0x91#8, 0x30#8, 0x12#8] { start with f := 0x80#8, x := 0x04#8, mem := [(0x1234, 0x00#8)] }
    (fun t => t.f == 0x08#8 && t.read 0x1234#16 == 0xFF#8) = true := by decide
theorem test_dec_V36 : after [0x96#8, 0x00#8, 0x30#8] { start with mem := [(0x1234, 0x80#8), (0x3000, 0x34#8), (0x3001, 0x12#8)] }
    (fun t => t.f == 0x00#8 && t.read 0x1234#16 == 0x7F#8) = true := by decide
theorem test_jfb_V37 : after [0x10#8, 0x05#8] { start with f := 0x00#8 }
    (fun t => t.p == 0x0205#16) = true := by decide
theorem test_jfb_V38 : after [0x10#8, 0x05#8] { start with f := 0x01#8 }
    (fun t => t.p == 0x0202#16) = true := by decide
theorem test_jfc_V39 : after [0x11#8, 0xFE#8] { start with f := 0x00#8 }
    (fun t => t.p == 0x01FE#16) = true := by decide
theorem test_jfd_V41 : after [0x12#8, 0x10#8] { start with f := 0x04#8 }
    (fun t => t.p == 0x0202#16) = true := by decide
theorem test_jfn_V42 : after [0x13#8, 0x7F#8] { start with f := 0x00#8 }
    (fun t => t.p == 0x027F#16) = true := by decide
theorem test_jfr_V43 : after [0x14#8, 0x80#8] { start with f := 0xEF#8 }
    (fun t => t.p == 0x0180#16) = true := by decide
theorem test_jfu_V44 : after [0x15#8, 0x04#8] { start with f := 0x20#8 }
    (fun t => t.p == 0x0202#16) = true := by decide
theorem test_jfv_V45 : after [0x16#8, 0x04#8] { start with f := 0x00#8 }
    (fun t => t.p == 0x0204#16) = true := by decide
theorem test_jfz_V47 : after [0x17#8, 0xFD#8] { start with f := 0x80#8 }
    (fun t => t.p == 0x0202#16) = true := by decide
theorem test_jtb_V48 : after [0x18#8, 0x06#8] { start with f := 0x05#8 }
    (fun t => t.p == 0x0206#16) = true := by decide
theorem test_jtc_V49 : after [0x19#8, 0x04#8] { start with f := 0x02#8 }
    (fun t => t.p == 0x0204#16) = true := by decide
theorem test_jtd_V50 : after [0x1A#8, 0x04#8] { start with f := 0x00#8 }
    (fun t => t.p == 0x0202#16) = true := by decide
theorem test_jtn_V51 : after [0x1B#8, 0x04#8] { start with f := 0x08#8 }
    (fun t => t.p == 0x0204#16) = true := by decide
theorem test_jtr_V52 : after [0x1C#8, 0x04#8] { start with f := 0xEF#8 }
    (fun t => t.p == 0x0202#16) = true := by decide
theorem test_jtu_V53 : after [0x1D#8, 0x04#8] { start with f := 0x20#8 }
    (fun t => t.p == 0x0204#16) = true := by decide
theorem test_jtv_V54 : after [0x1E#8, 0x04#8] { start with f := 0x40#8 }
    (fun t => t.p == 0x0204#16) = true := by decide
theorem test_jtz_V56 : after [0x1F#8, 0x04#8] { start with f := 0x00#8 }
    (fun t => t.p == 0x0202#16) = true := by decide
theorem test_jtz_V58 : after [0x1F#8, 0x80#8] { start with f := 0x80#8, p := 0x0001#16 }
    (fun t => t.p == 0xFF81#16) = true := by decide
theorem test_jmp_V65 : after [0x5B#8, 0xFF#8, 0xFF#8] { start with mem := [(0x0000, 0x12#8), (0xFFFF, 0x34#8)] }
    (fun t => t.p == 0x1234#16) = true := by decide
theorem test_jmp_V71 : after [0x7A#8, 0xFF#8] { start with x := 0x01#8, mem := [(0x0000, 0xFF#8), (0x00FF, 0xFF#8)] }
    (fun t => t.p == 0x0000#16) = true := by decide
theorem test_cal_V75 : after [0x72#8, 0x80#8] { start with s := 0x00#8 }
    (fun t => t.s == 0xFE#8 && t.p == 0x0080#16 && t.f == 0x00#8 && t.read 0x0100#16 == 0x02#8 && t.read 0x01FF#16 == 0x02#8) = true := by decide
theorem test_cal_V79 : after [0x71#8, 0x00#8, 0x03#8] { start with p := 0xFFFE#16, s := 0xFF#8 }
    (fun t => t.s == 0xFD#8 && t.p == 0x0300#16 && t.f == 0x00#8 && t.read 0x01FF#16 == 0x00#8 && t.read 0x01FE#16 == 0x01#8) = true := by decide
theorem test_lda_V85 : after [0x33#8, 0x00#8, 0x30#8] { start with mem := [(0x1234, 0x77#8), (0x3000, 0x34#8), (0x3001, 0x12#8)] }
    (fun t => t.a == 0x77#8 && t.f == 0x00#8) = true := by decide
theorem test_lda_V91 : after [0x67#8, 0x20#8] { start with y := 0x02#8, mem := [(0x0022, 0x00#8), (0x0023, 0x40#8), (0x4000, 0xC3#8)] }
    (fun t => t.a == 0xC3#8 && t.f == 0x08#8) = true := by decide
theorem test_ldx_V94 : after [0x43#8, 0x00#8, 0x10#8] { start with y := 0xFF#8, mem := [(0x10FF, 0x80#8)] }
    (fun t => t.x == 0x80#8 && t.f == 0x08#8) = true := by decide
theorem test_ldy_V98 : after [0x4F#8, 0x20#8] { start with x := 0x01#8, mem := [(0x0020, 0xFF#8), (0x0021, 0x0F#8), (0x1000, 0x05#8)] }
    (fun t => t.y == 0x05#8 && t.f == 0x00#8) = true := by decide
theorem test_sta_V100 : after [0x3E#8, 0x02#8] { start with a := 0xAB#8, x := 0xFF#8 }
    (fun t => t.f == 0x00#8 && t.read 0x0001#16 == 0xAB#8) = true := by decide
theorem test_stx_V104 : after [0x61#8, 0xF8#8, 0xFF#8] { start with x := 0x11#8, y := 0x10#8 }
    (fun t => t.f == 0x00#8 && t.read 0x0008#16 == 0x11#8) = true := by decide
theorem test_sty_V106 : after [0x6C#8, 0x00#8, 0x30#8] { start with y := 0x22#8, mem := [(0x3000, 0x34#8), (0x3001, 0x12#8)] }
    (fun t => t.f == 0x00#8 && t.read 0x1234#16 == 0x22#8) = true := by decide
theorem test_pha_V109 : after [0x20#8] { start with a := 0x5A#8, s := 0x00#8 }
    (fun t => t.s == 0xFF#8 && t.f == 0x00#8 && t.read 0x0100#16 == 0x5A#8) = true := by decide
theorem test_phf_V110 : after [0x21#8] { start with f := 0x82#8, s := 0xFE#8 }
    (fun t => t.s == 0xFD#8 && t.f == 0x82#8 && t.read 0x01FE#16 == 0x82#8) = true := by decide
theorem test_phx_V111 : after [0x22#8] { start with s := 0x80#8, x := 0x01#8 }
    (fun t => t.s == 0x7F#8 && t.f == 0x00#8 && t.read 0x0180#16 == 0x01#8) = true := by decide
theorem test_phy_V112 : after [0x23#8] { start with s := 0x01#8, y := 0xFF#8 }
    (fun t => t.s == 0x00#8 && t.f == 0x00#8 && t.read 0x0101#16 == 0xFF#8) = true := by decide
theorem test_pla_V114 : after [0x24#8] { start with s := 0xFF#8, mem := [(0x0100, 0x80#8)] }
    (fun t => t.a == 0x80#8 && t.s == 0x00#8 && t.f == 0x08#8) = true := by decide
theorem test_plf_V115 : after [0x25#8] { start with s := 0xFD#8, mem := [(0x01FE, 0xFF#8)] }
    (fun t => t.s == 0xFE#8 && t.f == 0xEF#8) = true := by decide
theorem test_plx_V117 : after [0x26#8] { start with s := 0x7F#8, mem := [(0x0180, 0x81#8)] }
    (fun t => t.s == 0x80#8 && t.x == 0x81#8 && t.f == 0x08#8) = true := by decide
theorem test_ply_V118 : after [0x27#8] { start with f := 0x80#8, s := 0x00#8, mem := [(0x0101, 0x01#8)] }
    (fun t => t.s == 0x01#8 && t.y == 0x01#8 && t.f == 0x00#8) = true := by decide
theorem test_taf_V119 : after [0x28#8] { start with a := 0xFF#8 }
    (fun t => t.f == 0xEF#8) = true := by decide
theorem test_tas_V121 : after [0x29#8] { start with a := 0xFF#8 }
    (fun t => t.s == 0xFF#8 && t.f == 0x08#8) = true := by decide
theorem test_tax_V122 : after [0x2A#8] { start with a := 0x00#8, x := 0x05#8 }
    (fun t => t.x == 0x00#8 && t.f == 0x80#8) = true := by decide
theorem test_tay_V123 : after [0x2B#8] { start with a := 0x42#8, f := 0x88#8 }
    (fun t => t.y == 0x42#8 && t.f == 0x00#8) = true := by decide
theorem test_tfa_V126 : after [0x2C#8] { start with f := 0x42#8 }
    (fun t => t.a == 0x42#8 && t.f == 0x42#8) = true := by decide
theorem test_tfa_V127 : after [0x2C#8] { start with f := 0x0A#8 }
    (fun t => t.a == 0x0A#8 && t.f == 0x02#8) = true := by decide
theorem test_tsa_V128 : after [0x2D#8] { start with s := 0xFD#8 }
    (fun t => t.a == 0xFD#8 && t.f == 0x08#8) = true := by decide
theorem test_txa_V129 : after [0x2E#8] { start with a := 0x09#8, f := 0x08#8, x := 0x00#8 }
    (fun t => t.a == 0x00#8 && t.f == 0x80#8) = true := by decide
theorem test_tya_V130 : after [0x2F#8] { start with f := 0x88#8, y := 0x7F#8 }
    (fun t => t.a == 0x7F#8 && t.f == 0x00#8) = true := by decide
theorem test_cmp_V132 : after [0x50#8, 0x20#8] { start with a := 0x10#8 }
    (fun t => t.f == 0x08#8) = true := by decide
theorem test_cmp_V135 : after [0x50#8, 0x01#8] { start with a := 0x80#8 }
    (fun t => t.f == 0x42#8) = true := by decide
theorem test_cpx_V139 : after [0x8D#8, 0x10#8] { start with x := 0xFF#8, y := 0x01#8, mem := [(0x0011, 0xFF#8)] }
    (fun t => t.f == 0x82#8) = true := by decide
theorem test_cpy_V141 : after [0x9B#8, 0x00#8, 0x10#8] { start with x := 0x02#8, y := 0x10#8, mem := [(0x1002, 0x0F#8)] }
    (fun t => t.f == 0x02#8) = true := by decide
theorem test_sub_V143 : after [0xD8#8, 0x05#8] { start with a := 0x03#8 }
    (fun t => t.a == 0xFE#8 && t.f == 0x08#8) = true := by decide
theorem test_sub_V149 : after [0xD8#8, 0x05#8] { start with a := 0x10#8, f := 0x00#8 }
    (fun t => t.a == 0x0B#8 && t.f == 0x02#8) = true := by decide
theorem test_sbc_V150 : after [0xC8#8, 0x05#8] { start with a := 0x10#8, f := 0x00#8 }
    (fun t => t.a == 0x0A#8 && t.f == 0x02#8) = true := by decide
theorem test_sbc_V155 : after [0xC8#8, 0x00#8] { start with a := 0x80#8, f := 0x00#8 }
    (fun t => t.a == 0x7F#8 && t.f == 0x42#8) = true := by decide
theorem test_add_V156 : after [0xD0#8, 0x01#8] { start with a := 0x7F#8, f := 0x02#8 }
    (fun t => t.a == 0x80#8 && t.f == 0x48#8) = true := by decide
theorem test_add_V157 : after [0xD0#8, 0x80#8] { start with a := 0x80#8 }
    (fun t => t.a == 0x00#8 && t.f == 0xC2#8) = true := by decide
theorem test_adc_V163 : after [0xC0#8, 0xFF#8] { start with a := 0xFF#8, f := 0x02#8 }
    (fun t => t.f == 0x0A#8) = true := by decide
theorem test_adc_V167 : after [0xE8#8, 0x20#8] { start with a := 0x01#8, f := 0x02#8, x := 0x01#8, mem := [(0x0020, 0x00#8), (0x0021, 0x40#8), (0x4001, 0x01#8)] }
    (fun t => t.a == 0x03#8 && t.f == 0x00#8) = true := by decide
theorem test_bor_V168 : after [0xB0#8, 0xF0#8] { start with a := 0x0F#8 }
    (fun t => t.a == 0xFF#8 && t.f == 0x08#8) = true := by decide
theorem test_xor_V171 : after [0xB8#8, 0xFF#8] { start with a := 0xAA#8 }
    (fun t => t.a == 0x55#8 && t.f == 0x00#8) = true := by decide
theorem test_and_V174 : after [0xAD#8, 0x00#8, 0x10#8] { start with a := 0xFF#8, y := 0x01#8, mem := [(0x1001, 0x80#8)] }
    (fun t => t.a == 0x80#8 && t.f == 0x08#8) = true := by decide
theorem test_bit_V175 : after [0xA2#8, 0x40#8] { start with a := 0x80#8, mem := [(0x0040, 0xC0#8)] }
    (fun t => t.f == 0x08#8) = true := by decide
theorem test_bit_V176 : after [0xA0#8, 0xFE#8] { start with a := 0x01#8, f := 0x40#8 }
    (fun t => t.f == 0xC0#8) = true := by decide
theorem test_not_V178 : after [0xF3#8, 0x00#8, 0x10#8] { start with x := 0x01#8, mem := [(0x1001, 0xFF#8)] }
    (fun t => t.f == 0x80#8 && t.read 0x1001#16 == 0x00#8) = true := by decide
theorem test_nta_V180 : after [0x70#8] { start with a := 0x55#8, f := 0x02#8 }
    (fun t => t.a == 0xAA#8 && t.f == 0x0A#8) = true := by decide
theorem test_shl_V183 : after [0xF6#8, 0x34#8, 0x12#8] { start with mem := [(0x1234, 0x80#8)] }
    (fun t => t.f == 0x82#8 && t.read 0x1234#16 == 0x00#8) = true := by decide
theorem test_shr_V184 : after [0xFA#8, 0x34#8, 0x12#8] { start with f := 0x02#8, mem := [(0x1234, 0x81#8)] }
    (fun t => t.f == 0x0A#8 && t.read 0x1234#16 == 0xC0#8) = true := by decide
theorem test_sla_V189 : after [0x7E#8] { start with a := 0x40#8, f := 0x02#8 }
    (fun t => t.a == 0x81#8 && t.f == 0x08#8) = true := by decide
theorem test_sra_V192 : after [0x7F#8] { start with a := 0x02#8, f := 0x02#8 }
    (fun t => t.a == 0x81#8 && t.f == 0x08#8) = true := by decide
theorem test_zra_V194 : after [0x38#8] { start with a := 0x9C#8, f := 0x0A#8 }
    (fun t => t.a == 0x00#8 && t.f == 0x82#8) = true := by decide
theorem test_zrx_V195 : after [0x40#8] { start with f := 0x08#8, x := 0xFF#8 }
    (fun t => t.x == 0x00#8 && t.f == 0x80#8) = true := by decide
theorem test_zry_V196 : after [0x48#8] { start with y := 0x33#8 }
    (fun t => t.y == 0x00#8 && t.f == 0x80#8) = true := by decide

/-! ## Step 1: the interrupt vectors of section 2.9 -/

theorem test_step1_I1 : (let t := State.processInterrupts { start with a := 0x12#8, f := 0xEF#8, p := 0xBEEF#16, s := 0x78#8, x := 0x34#8, y := 0x56#8, mem := vectors, reqReset := true }
    t.a == 0x00#8 && t.s == 0x00#8 && t.f == 0x00#8 && t.p == 0x0200#16 && t.cycles == 2) = true := by decide
theorem test_step1_I2 : (let t := State.processInterrupts { start with f := 0x4B#8, p := 0x0234#16, s := 0xFF#8, mem := vectors, reqReact := true }
    t.s == 0xFC#8 && t.f == 0x4F#8 && t.p == 0x0310#16 && t.read 0x01FF#16 == 0x02#8 && t.read 0x01FE#16 == 0x34#8 && t.read 0x01FD#16 == 0x4B#8 && t.cycles == 5) = true := by decide
theorem test_step1_I3 : (let t := State.processInterrupts { start with f := 0x04#8, p := 0x0234#16, s := 0xFF#8, mem := vectors, reqBreakExt := true }
    t.f == 0x04#8 && t.p == 0x0234#16 && t.cycles == 0) = true := by decide
theorem test_step1_I5 : (let t := State.processInterrupts { start with f := 0x00#8, p := 0x0201#16, s := 0xFF#8, mem := vectors, reqBreakBrk := true }
    t.s == 0xFC#8 && t.f == 0x05#8 && t.p == 0x0300#16 && t.read 0x01FF#16 == 0x02#8 && t.read 0x01FE#16 == 0x01#8 && t.read 0x01FD#16 == 0x00#8 && t.cycles == 5) = true := by decide
theorem test_step1_I6 : (let t := State.processInterrupts { start with f := 0x00#8, p := 0x0201#16, s := 0xFF#8, mem := vectors, reqBreakExt := true, reqBreakBrk := true }
    t.s == 0xFC#8 && t.f == 0x05#8 && t.p == 0x0300#16 && t.read 0x01FF#16 == 0x02#8 && t.read 0x01FE#16 == 0x01#8 && t.read 0x01FD#16 == 0x00#8 && t.cycles == 5) = true := by decide
theorem test_step1_I8 : (let t := State.processInterrupts { start with f := 0x00#8, p := 0x0201#16, s := 0xFF#8, mem := vectors, reqReact := true, reqBreakBrk := true }
    t.s == 0xFC#8 && t.f == 0x04#8 && t.p == 0x0310#16 && t.read 0x01FF#16 == 0x02#8 && t.read 0x01FE#16 == 0x01#8 && t.read 0x01FD#16 == 0x00#8 && t.cycles == 5) = true := by decide
theorem test_step1_I9 : (let t := State.processInterrupts { start with a := 0x01#8, f := 0x00#8, p := 0x0234#16, s := 0xFF#8, mem := vectors, reqReset := true, reqReact := true, reqBreakExt := true }
    t.a == 0x00#8 && t.s == 0x00#8 && t.f == 0x00#8 && t.p == 0x0200#16 && t.cycles == 2) = true := by decide
theorem test_step1_I10 : (let t := State.processInterrupts { start with f := 0x00#8, p := 0xABCD#16, s := 0x01#8, mem := vectors, reqReact := true }
    t.s == 0xFE#8 && t.f == 0x04#8 && t.p == 0x0310#16 && t.read 0x0101#16 == 0xAB#8 && t.read 0x0100#16 == 0xCD#8 && t.read 0x01FF#16 == 0x00#8 && t.cycles == 5) = true := by decide

/-- From reset with an image: the first step processes RESET and runs the instruction the vector names (2 + 2 cycles). -/
theorem test_first_step_from_reset :
    (match step { State.reset with mem := [(0x0200, 0x30#8), (0x0201, 0x80#8), (0xFFFE, 0x00#8), (0xFFFF, 0x02#8)] } with
    | .next t => t.a == 0x80#8 && t.p == 0x0202#16 && t.cycles == 4 && !t.reqReset
    | _ => false) = true := by decide

/-- An external BREAK of the second iteration is taken in at its step 1, between two NOPs. -/
theorem test_input_is_sampled_at_step_1 :
    (match step { start with mem := [(0x0200, 0x07#8), (0x0300, 0x07#8), (0xFFFA, 0x00#8), (0xFFFB, 0x03#8)],
                             irqInput := [⟨false, false, false⟩, ⟨false, false, true⟩] } with
    | .next t => (match step t with
      | .next u => t.p == 0x0201#16 && u.p == 0x0301#16 && u.irqInput.isEmpty
      | _ => false)
    | _ => false) = true := by decide

/-- A table word runs as the first instruction after reset. -/
theorem test_withFetchWord_after_reset :
    (match step (State.reset.withFetchWord 16 0x8030) with
    | .next t => t.a == 0x80#8 && t.p == 0x0202#16
    | _ => false) = true := by decide

/-- A word placed at the top of the address space wraps, and runs. -/
theorem test_withFetchWord_wraps :
    (match step (State.withFetchWord { start with p := 0xFFFF#16 } 24 0x123459) with
    | .next t => t.p == 0x1234#16
    | _ => false) = true := by decide

/-! ## Witnesses: concrete values that meet the hypotheses of each obligation, each clause at a boundary -/

theorem witness_DecodeInvertsEncode :
    (Instr.inv 0xFF#8).wf = true ∧ (Instr.lda (.zyv 0xFF#8)).wf = true ∧ (Instr.shr (.abx 0xFFFF#16)).wf = true := by decide
theorem witness_DecodedBytesAreTheEncoding :
    decode [0x00#8] = .ok (.inv 0x00#8, []) ∧ decode [0xFB#8, 0xFF#8, 0xFF#8, 0x00#8] = .ok (.shr (.abx 0xFFFF#16), [0x00#8]) := by decide
theorem witness_OpcodeAloneDecidesDecoding :
    decode [0x00#8, 0xFF#8, 0xFF#8] = .ok (.inv 0x00#8, [0xFF#8, 0xFF#8]) ∧
    decode [0xFF#8, 0x00#8, 0x00#8] = .ok (.inv 0xFF#8, [0x00#8, 0x00#8]) := by decide
theorem witness_ReadAfterStore_other_address :
    (0x0000#16 : Address) ≠ 0xFFFF#16 := by decide
theorem witness_ReadAfterStore_undefined :
    Memory.lookup State.reset.mem (0x0000#16 : Address).toNat = none ∧
    Memory.lookup vectors (0xFFF9#16 : Address).toNat = none := by decide
theorem witness_StackPushThenPull_other_address :
    (0x00FF#16 : Address) ≠ stackAddr 0x00#8 ∧ (0x0200#16 : Address) ≠ stackAddr 0xFF#8 := by decide
theorem witness_StackStaysInItsPage :
    ({ start with s := 0x00#8 } : State).s = 0x00#8 ∧ ({ start with s := 0xFF#8 } : State).s = 0xFF#8 := by decide
theorem witness_AddressingModesComputeAddr_rel :
    (({ start with p := 0x0000#16 } : State).p = 0xFFFE#16 + 2#16) ∧
    addrOf { start with p := 0x0000#16 } (.rel 0x7F#8) = 0x007D#16 ∧ addrOf { start with p := 0x0000#16 } (.rel 0x80#8) = 0xFF7E#16 := by decide
theorem witness_AddressingModesComputeAddr_data :
    (Operand.abs 0x0000#16).mode ≠ .imm ∧ (Operand.zyv 0xFF#8).mode ≠ .imm ∧ (Operand.rel 0x80#8).mode ≠ .imm := by decide
theorem witness_ImmediateOperandIsTheByteAtAddr :
    (ready [0x30#8, 0x80#8] { start with p := 0xFFFF#16 }).fetch = .ok (.lda (.imm 0x80#8)) ∧
    instrMode (.lda (.imm 0x80#8)) = .imm ∧ tailBytes (.lda (.imm 0x80#8)) = [0x80#8] := by decide
theorem witness_StepRunsTheDecodedInstruction :
    (Instr.jmp (.abs 0x1234#16)).wf = true ∧ ∀ (k : Nat) (h : k < (encode (.jmp (.abs 0x1234#16))).length),
      (ready [0x59#8, 0x34#8, 0x12#8] { start with p := 0xFFFE#16 }).processInterrupts.read
        ((ready [0x59#8, 0x34#8, 0x12#8] { start with p := 0xFFFE#16 }).processInterrupts.p + BitVec.ofNat 16 k) =
          (encode (.jmp (.abs 0x1234#16)))[k] := by decide
theorem witness_MachineStopsOnlyOnInv_00 : faults [0x00#8] start 0x00#8 0x0200#16 = true := by decide
theorem witness_MachineStopsOnlyOnInv_FC : faults [0xFC#8] start 0xFC#8 0x0200#16 = true := by decide
theorem witness_MachineStopsOnlyOnInv_FF : faults [0xFF#8] start 0xFF#8 0x0200#16 = true := by decide
theorem witness_MachineStopsOnlyOnInv_01 : after [0x01#8] start (fun _ => true) = true := by decide
theorem witness_MachineStopsOnlyOnInv_FB : after [0xFB#8, 0x00#8, 0x10#8] { start with mem := [(0x1000, 0x01#8)] }
    (fun _ => true) = true := by decide
theorem witness_InvariantKeptByStep :
    (ready [0x25#8] { start with mem := [(0x0101, 0xFF#8)] }).Inv ∧
    ∃ t, step (ready [0x25#8] { start with mem := [(0x0101, 0xFF#8)] }) = .next t := ⟨⟨by decide, by decide⟩, _, rfl⟩
theorem witness_FlagsOutsideTheTableAreKept :
    (∃ t, exec .clc State.reset = .next t) ∧ Flag.b ∉ flagsWritten .clc ∧ Flag.z ∉ flagsWritten .clc := ⟨⟨_, rfl⟩, by decide, by decide⟩
theorem witness_RegistersOutsideTheListsAreKept :
    (∃ t, exec .pla State.reset = .next t) ∧ Reg.x ∉ regsWritten .pla ∧ Reg.y ∉ regsWritten .pla := ⟨⟨_, rfl⟩, by decide, by decide⟩
theorem witness_BytesOutsideTheStoresAreKept :
    (∃ t, exec (.cal (.abs 0x0300#16)) State.reset = .next t) ∧
    (0x0101#16 : Address) ∉ storedAt State.reset (.cal (.abs 0x0300#16)) ∧ (0x0100#16 : Address) ∈ storedAt State.reset (.cal (.abs 0x0300#16)) ∧
    (0x01FF#16 : Address) ∈ storedAt State.reset (.cal (.abs 0x0300#16)) := ⟨⟨_, rfl⟩, by decide, by decide, by decide⟩
theorem witness_OnlyControlTransferWritesP :
    (∃ t, exec .brk State.reset = .next t) ∧ writesP .brk = false := ⟨⟨_, rfl⟩, rfl⟩
theorem witness_OnlyBrkRaisesARequest :
    (∃ t, exec .nop State.reset = .next t) ∧ (∃ t, exec .brk State.reset = .next t) ∧ Instr.nop ≠ .brk := ⟨⟨_, rfl⟩, ⟨_, rfl⟩, by decide⟩
theorem witness_StepSpendsTheTabledCycles_none :
    State.fetch (State.processInterrupts { start with mem := (0x0200, 0x07#8) :: (0x0300, 0x07#8) :: (0x0310, 0x07#8) :: vectors }) = .ok .nop ∧
    State.select (State.takeInput { start with mem := (0x0200, 0x07#8) :: (0x0300, 0x07#8) :: (0x0310, 0x07#8) :: vectors }) = .none ∧
    ∃ t, step { start with mem := (0x0200, 0x07#8) :: (0x0300, 0x07#8) :: (0x0310, 0x07#8) :: vectors } = .next t := ⟨by decide, by decide, _, rfl⟩
theorem witness_StepSpendsTheTabledCycles_reset :
    State.fetch (State.processInterrupts { start with mem := (0x0200, 0x07#8) :: (0x0300, 0x07#8) :: (0x0310, 0x07#8) :: vectors, reqReset := true }) = .ok .nop ∧
    State.select (State.takeInput { start with mem := (0x0200, 0x07#8) :: (0x0300, 0x07#8) :: (0x0310, 0x07#8) :: vectors, reqReset := true }) = .reset ∧
    ∃ t, step { start with mem := (0x0200, 0x07#8) :: (0x0300, 0x07#8) :: (0x0310, 0x07#8) :: vectors, reqReset := true } = .next t := ⟨by decide, by decide, _, rfl⟩
theorem witness_StepSpendsTheTabledCycles_react :
    State.fetch (State.processInterrupts { start with mem := (0x0200, 0x07#8) :: (0x0300, 0x07#8) :: (0x0310, 0x07#8) :: vectors, reqReact := true }) = .ok .nop ∧
    State.select (State.takeInput { start with mem := (0x0200, 0x07#8) :: (0x0300, 0x07#8) :: (0x0310, 0x07#8) :: vectors, reqReact := true }) = .react ∧
    ∃ t, step { start with mem := (0x0200, 0x07#8) :: (0x0300, 0x07#8) :: (0x0310, 0x07#8) :: vectors, reqReact := true } = .next t := ⟨by decide, by decide, _, rfl⟩
theorem witness_StepSpendsTheTabledCycles_break :
    State.fetch (State.processInterrupts { start with mem := (0x0200, 0x07#8) :: (0x0300, 0x07#8) :: (0x0310, 0x07#8) :: vectors, reqBreakExt := true }) = .ok .nop ∧
    State.select (State.takeInput { start with mem := (0x0200, 0x07#8) :: (0x0300, 0x07#8) :: (0x0310, 0x07#8) :: vectors, reqBreakExt := true }) = .brk false ∧
    ∃ t, step { start with mem := (0x0200, 0x07#8) :: (0x0300, 0x07#8) :: (0x0310, 0x07#8) :: vectors, reqBreakExt := true } = .next t := ⟨by decide, by decide, _, rfl⟩
theorem witness_LongestInstructionIsSevenCycles :
    (Instr.inv 0x00#8).wf = true ∧ instrCycles (.inv 0x00#8) = 1 ∧
    (Instr.dec (.vec 0xFFFF#16)).wf = true ∧ instrCycles (.dec (.vec 0xFFFF#16)) = 7 := by decide
theorem witness_PlacedWordIsTheNextInstruction :
    decodeTableWord 8 0x07 = some .nop ∧ decodeTableWord 24 0xFFFFFB = some (.shr (.abx 0xFFFF#16)) := by decide
theorem witness_RequestsTakenInAndDropped :
    start.irqInput = [] ∧ ({ start with irqInput := [⟨true, false, true⟩] } : State).irqInput = ⟨true, false, true⟩ :: [] := by decide
theorem witness_ResetZeroesTheRegisters :
    State.reset.takeInput.reqReset = true ∧
    (State.takeInput { start with irqInput := [⟨true, true, true⟩], f := 0x04#8 }).reqReset = true := by decide
theorem witness_ReactEntryPushesPAndF :
    (State.takeInput { start with irqInput := [⟨false, true, true⟩], f := 0x04#8 }).reqReset = false ∧
    (State.takeInput { start with irqInput := [⟨false, true, true⟩], f := 0x04#8 }).reqReact = true := by decide
theorem witness_BreakEntrySetsBForBrk_external :
    (State.takeInput { start with irqInput := [⟨false, false, true⟩] }).reqReset = false ∧ (State.takeInput { start with irqInput := [⟨false, false, true⟩] }).reqReact = false ∧
    ((State.takeInput { start with irqInput := [⟨false, false, true⟩] }).reqBreakExt = true ∨ ({ start with irqInput := [⟨false, false, true⟩] } : State).reqBreakBrk = true) ∧
    State.flag { start with irqInput := [⟨false, false, true⟩] } .d = false := by decide
theorem witness_BreakEntrySetsBForBrk_by_brk :
    (State.takeInput { start with reqBreakBrk := true }).reqReset = false ∧ (State.takeInput { start with reqBreakBrk := true }).reqReact = false ∧
    ((State.takeInput { start with reqBreakBrk := true }).reqBreakExt = true ∨ ({ start with reqBreakBrk := true } : State).reqBreakBrk = true) ∧
    State.flag { start with reqBreakBrk := true } .d = false := by decide
theorem witness_BreakEntrySetsBForBrk_both :
    (State.takeInput { start with reqBreakExt := true, reqBreakBrk := true }).reqReset = false ∧ (State.takeInput { start with reqBreakExt := true, reqBreakBrk := true }).reqReact = false ∧
    ((State.takeInput { start with reqBreakExt := true, reqBreakBrk := true }).reqBreakExt = true ∨ ({ start with reqBreakExt := true, reqBreakBrk := true } : State).reqBreakBrk = true) ∧
    State.flag { start with reqBreakExt := true, reqBreakBrk := true } .d = false := by decide
theorem witness_MaskedBreakChangesNothing_unrequested :
    (State.takeInput { start with f := 0xEB#8 }).reqReset = false ∧ (State.takeInput { start with f := 0xEB#8 }).reqReact = false ∧
    (((State.takeInput { start with f := 0xEB#8 }).reqBreakExt = false ∧ ({ start with f := 0xEB#8 } : State).reqBreakBrk = false) ∨
      State.flag { start with f := 0xEB#8 } .d = true) := by decide
theorem witness_MaskedBreakChangesNothing_masked :
    (State.takeInput { start with reqBreakExt := true, reqBreakBrk := true, f := 0x04#8 }).reqReset = false ∧ (State.takeInput { start with reqBreakExt := true, reqBreakBrk := true, f := 0x04#8 }).reqReact = false ∧
    (((State.takeInput { start with reqBreakExt := true, reqBreakBrk := true, f := 0x04#8 }).reqBreakExt = false ∧ ({ start with reqBreakExt := true, reqBreakBrk := true, f := 0x04#8 } : State).reqBreakBrk = false) ∨
      State.flag { start with reqBreakExt := true, reqBreakBrk := true, f := 0x04#8 } .d = true) := by decide
theorem witness_RtiInvertsTheEntry :
    State.flag { start with f := 0xEF#8, s := 0x01#8 } .r = false ∧
    ∃ τ : State, τ.mem = (State.interruptEntry { start with f := 0xEF#8, s := 0x01#8 } breakVector true).mem ∧
      τ.s = (State.interruptEntry { start with f := 0xEF#8, s := 0x01#8 } breakVector true).s ∧ τ.s = 0xFE#8 ∧ τ.a = 0x01#8 := ⟨by decide, { State.interruptEntry { start with f := 0xEF#8, s := 0x01#8 } breakVector true with a := 0x01#8 },
    rfl, rfl, rfl, rfl⟩
theorem witness_BrkTrapsToTheNextInstruction :
    (ready [0x01#8] start).read (ready [0x01#8] start).p = 0x01#8 ∧ (ready [0x01#8] start).irqInput = [] ∧
    (ready [0x01#8] start).reqReset = false ∧ (ready [0x01#8] start).reqReact = false ∧
    (ready [0x01#8] start).reqBreakExt = false ∧ (ready [0x01#8] start).reqBreakBrk = false ∧
    (ready [0x01#8] start).flag .d = false := by decide
theorem witness_BrkWhileMaskedIsANop :
    (ready [0x01#8] { start with f := 0x04#8 }).read (ready [0x01#8] { start with f := 0x04#8 }).p = 0x01#8 ∧ (ready [0x01#8] { start with f := 0x04#8 }).irqInput = [] ∧
    (ready [0x01#8] { start with f := 0x04#8 }).reqReset = false ∧ (ready [0x01#8] { start with f := 0x04#8 }).reqReact = false ∧
    (ready [0x01#8] { start with f := 0x04#8 }).reqBreakExt = false ∧ (ready [0x01#8] { start with f := 0x04#8 }).reqBreakBrk = false ∧
    (ready [0x01#8] { start with f := 0x04#8 }).flag .d = true := by decide
theorem witness_InvFaults :
    [0x00#8, 0xFC#8, 0xFD#8, 0xFE#8, 0xFF#8].all (fun op => (Instr.inv op).wf) = true := by decide
theorem witness_JfrAlwaysAndJtrNeverJumps :
    State.Inv { start with f := 0xEF#8 } := ⟨by decide, by decide⟩
theorem witness_RetReturnsPastTheCal :
    ∃ t τ : State, exec (.cal (.abs 0x0300#16)) start = .next t ∧ τ.mem = t.mem ∧ τ.s = t.s ∧ τ.a = 0x01#8 := ⟨_, { start.pushWord start.p with a := 0x01#8 }, rfl, rfl, rfl, rfl⟩
theorem witness_ComparesShowTheDifference :
    (Instr.cpy (.imm 0x01#8), start.y) ∈ [(Instr.cmp (.imm 0x01#8), start.a), (.cpx (.imm 0x01#8), start.x),
      (.cpy (.imm 0x01#8), start.y)] := by decide
theorem witness_kept_flags_and_bytes :
    Flag.u ∉ [Flag.c, .n, .v, .z] ∧ Reg.x ∉ [Reg.a, .s] ∧ (0x0000#16 : Address) ∉ [stackAddr 0x00#8, stackAddr 0xFF#8] ∧
    Flag.b ≠ .r ∧ Flag.z ≠ .r := by decide

end Sys2Proof.Tests
end

/-! ## What an instruction can change

Every meaning that `exec` gives is a short composition of five updates: a register, F, P, a byte of memory, the request
of `BRK`. Each update has a footprint, footprints compose, and the tables of Safety.lean give each instruction one. The
rules of 10_state.md on who writes what (R11, R14 to R16, R21, R25) are then read off `exec_within`. -/

namespace Sys2Proof.Machine

/-- What a change of the state may touch: registers, flags and bytes of memory, whether P, and whether the request that
`BRK` raises. -/
structure Footprint where
  regs : List Reg := []
  flags : List Flag := []
  stored : List Address := []
  p : Bool := false
  brk : Bool := false

/-- The footprint of one change followed by another. -/
def Footprint.join (fp fq : Footprint) : Footprint where
  regs := fp.regs ++ fq.regs
  flags := fp.flags ++ fq.flags
  stored := fp.stored ++ fq.stored
  p := fp.p || fq.p
  brk := fp.brk || fq.brk

/-- The footprint the spec's tables give an instruction that runs in `σ`; `BRK` alone raises a request (R102). -/
def footprint (σ : State) (i : Instr) : Footprint where
  regs := regsWritten i
  flags := flagsWritten i
  stored := storedAt σ i
  p := writesP i
  brk := decide (i = .brk)

/-- From `σ` to `t` nothing changes outside the footprint, and the invariant is kept. -/
structure Within (fp : Footprint) (σ t : State) : Prop where
  regs : ∀ r, r ∉ fp.regs → t.reg r = σ.reg r
  flags : ∀ fl, fl ∉ fp.flags → t.flag fl = σ.flag fl
  memory : ∀ a, a ∉ fp.stored → t.read a = σ.read a
  p : fp.p = false → t.p = σ.p
  breakBrk : fp.brk = false → t.reqBreakBrk = σ.reqBreakBrk
  requests : t.reqReset = σ.reqReset ∧ t.reqReact = σ.reqReact ∧ t.reqBreakExt = σ.reqBreakExt
  inputs : t.irqInput = σ.irqInput
  cycles : t.cycles = σ.cycles
  inv : σ.Inv → t.Inv

/-- The invariant speaks of memory and F alone. -/
theorem State.Inv.congr {σ t : State} (h : σ.Inv) (hmem : t.mem = σ.mem) (hf : t.f = σ.f) : t.Inv := by
  simpa [State.Inv, State.flag, hmem, hf] using h

theorem Within.refl (σ : State) : Within {} σ σ where
  regs _ _ := rfl
  flags _ _ := rfl
  memory _ _ := rfl
  p _ := rfl
  breakBrk _ := rfl
  requests := ⟨rfl, rfl, rfl⟩
  inputs := rfl
  cycles := rfl
  inv h := h

theorem Within.trans {fp fq : Footprint} {σ t u : State} (h : Within fp σ t) (k : Within fq t u) :
    Within (fp.join fq) σ u where
  regs r hr := (k.regs r (hr ∘ List.mem_append_right _)).trans (h.regs r (hr ∘ List.mem_append_left _))
  flags fl hfl := (k.flags fl (hfl ∘ List.mem_append_right _)).trans (h.flags fl (hfl ∘ List.mem_append_left _))
  memory a ha := (k.memory a (ha ∘ List.mem_append_right _)).trans (h.memory a (ha ∘ List.mem_append_left _))
  p hp := by
    obtain ⟨hp, hq⟩ := Bool.or_eq_false_iff.mp hp
    exact (k.p hq).trans (h.p hp)
  breakBrk hb := by
    obtain ⟨hp, hq⟩ := Bool.or_eq_false_iff.mp hb
    exact (k.breakBrk hq).trans (h.breakBrk hp)
  requests := by
    obtain ⟨h1, h2, h3⟩ := h.requests
    obtain ⟨k1, k2, k3⟩ := k.requests
    exact ⟨k1.trans h1, k2.trans h2, k3.trans h3⟩
  inputs := k.inputs.trans h.inputs
  cycles := k.cycles.trans h.cycles
  inv := k.inv ∘ h.inv

/-- A change that raises no request keeps everything outside its footprint in the sense of `Kept`. -/
theorem Within.kept {fp : Footprint} {σ t : State} (h : Within fp σ t) (hb : fp.brk = false) :
    Kept σ t fp.regs fp.flags fp.stored where
  regs := h.regs
  flags := h.flags
  memory := h.memory
  requests := by
    obtain ⟨h1, h2, h3⟩ := h.requests
    exact ⟨h1, h2, h3, h.breakBrk hb⟩
  inputs := h.inputs
  cycles := h.cycles

/-! ### The five updates -/

section updates
variable (σ : State)

theorem within_setReg (r : Reg) (v : Byte) : Within { regs := [r] } σ (σ.setReg r v) where
  regs q hq := by
    have hne : r ≠ q := fun h => hq (by simp [h])
    simp [hne]
  flags fl _ := by simp [State.flag]
  memory a _ := by simp [State.read]
  p _ := by simp
  breakBrk _ := by simp
  requests := by simp
  inputs := by simp
  cycles := by simp
  inv h := h.congr (by simp) (by simp)

/-- A new F that differs only in the listed flags, and has R = 0 where R is listed (10_state.md R21). -/
theorem within_setF {f : Byte} {fls : List Flag} (h : ∀ fl, fl ∉ fls → getFlag f fl = σ.flag fl)
    (hr : .r ∈ fls → getFlag f .r = false) : Within { flags := fls } σ { σ with f := f } where
  regs r _ := by cases r <;> rfl
  flags := h
  memory _ _ := rfl
  p _ := rfl
  breakBrk _ := rfl
  requests := ⟨rfl, rfl, rfl⟩
  inputs := rfl
  cycles := rfl
  inv := by
    rintro ⟨hmem, hzero⟩
    refine ⟨hmem, ?_⟩
    by_cases hin : .r ∈ fls
    · exact hr hin
    · exact (h .r hin).trans hzero

theorem within_store (a : Address) (v : Byte) : Within { stored := [a] } σ (σ.store a v) where
  regs r _ := by simp
  flags fl _ := by simp
  memory b hb := by
    have hne : b ≠ a := fun h => hb (by simp [h])
    simp [State.read_store, hne]
  p _ := rfl
  breakBrk _ := rfl
  requests := ⟨rfl, rfl, rfl⟩
  inputs := rfl
  cycles := rfl
  inv := fun ⟨hmem, hr⟩ => ⟨State.wf_store a v hmem, hr⟩

theorem within_setP (w : Address) : Within { p := true } σ { σ with p := w } where
  regs r _ := by cases r <;> rfl
  flags _ _ := rfl
  memory _ _ := rfl
  p := nofun
  breakBrk _ := rfl
  requests := ⟨rfl, rfl, rfl⟩
  inputs := rfl
  cycles := rfl
  inv h := h.congr rfl rfl

theorem within_raiseBrk : Within { brk := true } σ { σ with reqBreakBrk := true } where
  regs r _ := by cases r <;> rfl
  flags _ _ := rfl
  memory _ _ := rfl
  p _ := rfl
  breakBrk := nofun
  requests := ⟨rfl, rfl, rfl⟩
  inputs := rfl
  cycles := rfl
  inv h := h.congr rfl rfl

/-! ### The shared operations, as compositions of the updates -/

theorem within_setNZ (v : Byte) : Within { flags := [.n, .z] } σ { σ with f := setNZ σ.f v } :=
  within_setF σ (fun fl hfl => by simp_all [getFlag_setNZ, State.flag]) (by simp)

theorem within_setCVNZ (o : AluOut) : Within { flags := [.c, .n, .v, .z] } σ { σ with f := setCVNZ σ.f o } :=
  within_setF σ (fun fl hfl => by simp_all [getFlag_setCVNZ, State.flag]) (by simp)

theorem within_setShift (o : Byte × Bool) : Within { flags := [.c, .n, .z] } σ { σ with f := setShift σ.f o } :=
  within_setF σ (fun fl hfl => by simp_all [getFlag_setShift, State.flag]) (by simp)

theorem within_clearC : Within { flags := [.c] } σ { σ with f := setFlag σ.f .c false } :=
  within_setF σ (fun fl hfl => by simp_all [getFlag_setFlag, State.flag]) (by simp)

theorem within_putF (v : Byte) : Within { flags := Flag.all } σ (σ.putF v) :=
  within_setF σ (fun fl hfl => absurd (by cases fl <;> decide) hfl) (fun _ => by simp [getFlag_writeF])

theorem within_setRegNZ (r : Reg) (v : Byte) : Within { regs := [r], flags := [.n, .z] } σ (σ.setRegNZ r v) := by
  have h := (within_setReg σ r v).trans (within_setNZ _ v)
  rwa [State.setReg_f] at h

theorem within_putAlu (o : AluOut) : Within { regs := [.a], flags := [.c, .n, .v, .z] } σ (σ.putAlu o) :=
  (within_setReg σ .a o.r).trans (within_setCVNZ _ o)

theorem within_rotateA (o : Byte × Bool) : Within { regs := [.a], flags := [.c, .n, .z] } σ (σ.rotateA o) :=
  (within_setReg σ .a o.1).trans (within_setShift _ o)

theorem within_rotateMem (m : Operand) (o : Byte × Bool) :
    Within { flags := [.c, .n, .z], stored := [addrOf σ m] } σ (σ.rotateMem m o) :=
  (within_store σ (addrOf σ m) o.1).trans (within_setShift _ o)

theorem within_modify (m : Operand) (g : Byte → Byte) :
    Within { flags := [.n, .z], stored := [addrOf σ m] } σ (σ.modify m g) :=
  (within_store σ (addrOf σ m) (g (dataOf σ m))).trans (within_setNZ _ (g (dataOf σ m)))

theorem within_jumpIf (c : Bool) (o : Byte) : Within { p := true } σ (σ.jumpIf c o) := by
  cases c with
  | false => exact within_setP σ σ.p
  | true => exact within_setP σ (addrOf σ (.rel o))

theorem within_push (v : Byte) : Within { regs := [.s], stored := [stackAddr σ.s] } σ (σ.push v) :=
  (within_store σ (stackAddr σ.s) v).trans (within_setReg _ .s (σ.s - 1#8))

/-- S moves once over both bytes, so it stands once in the footprint; likewise in the pulls below. -/
theorem within_pushWord (w : Address) :
    Within { regs := [.s], stored := [stackAddr σ.s, stackAddr (σ.s - 1#8)] } σ (σ.pushWord w) :=
  ((within_store σ (stackAddr σ.s) (hi w)).trans (within_store _ (stackAddr (σ.s - 1#8)) (lo w))).trans
    (within_setReg _ .s (σ.s - 1#8 - 1#8))

theorem within_dropTop : Within { regs := [.s] } σ σ.dropTop := within_setReg σ .s (σ.s + 1#8)

theorem within_pullP : Within { regs := [.s], p := true } σ σ.pullP :=
  (within_setReg σ .s (σ.s + 1#8 + 1#8)).trans (within_setP _ (word σ.dropTop.top σ.top))

theorem within_returnFromInterrupt :
    Within { regs := [.s], flags := Flag.all, p := true } σ σ.returnFromInterrupt :=
  ((within_putF σ σ.top).trans (within_setReg _ .s (σ.s + 1#8 + 1#8 + 1#8))).trans
    (within_setP _ σ.returnFromInterrupt.p)

theorem within_pull {r : Reg} (hr : r ≠ .s) :
    Within { regs := [r, .s], flags := [.n, .z] } σ (σ.dropTop.setRegNZ r σ.top) := by
  have hswap : σ.dropTop.setRegNZ r σ.top = (σ.setRegNZ r σ.top).setReg .s (σ.s + 1#8) := by
    cases r with
    | s => exact absurd rfl hr
    | a | x | y => rfl
  rw [hswap]
  exact (within_setRegNZ σ r σ.top).trans (within_setReg _ .s (σ.s + 1#8))

end updates

/-! ### All instructions -/

/-- An instruction that completes changes nothing outside the footprint the spec's tables give it, and keeps the
invariant. -/
theorem exec_within {i : Instr} {σ t : State} (h : exec i σ = .next t) : Within (footprint σ i) σ t := by
  cases i with
  | inv op => cases h
  | nop => cases h; exact .refl σ
  | brk => cases h; exact within_raiseBrk σ
  | rti => cases h; exact within_returnFromInterrupt σ
  | ret => cases h; exact within_pullP σ
  | for_ _ | fnd _ | taf => cases h; exact within_putF σ _
  | app | amm | spp | smm | xpp | xmm | ypp | ymm => cases h; exact within_setRegNZ σ _ _
  | lda _ | ldx _ | ldy _ => cases h; exact within_setRegNZ σ _ _
  | tas | tax | tay | tfa | tsa | txa | tya => cases h; exact within_setRegNZ σ _ _
  | bor _ | xor _ | and _ | nta | zra | zrx | zry => cases h; exact within_setRegNZ σ _ _
  | inc m | dec m | not m => cases h; exact within_modify σ m _
  | jfb o | jfc o | jfd o | jfn o | jfr o | jfu o | jfv o | jfz o => cases h; exact within_jumpIf σ _ o
  | jtb o | jtc o | jtd o | jtn o | jtr o | jtu o | jtv o | jtz o => cases h; exact within_jumpIf σ _ o
  | jmp m => cases h; exact within_setP σ _
  | cal m => cases h; exact (within_pushWord σ σ.p).trans (within_setP _ _)
  | clc => cases h; exact within_clearC σ
  | sta m | stx m | sty m => cases h; exact within_store σ _ _
  | pha | phf | phx | phy => cases h; exact within_push σ _
  | pla | plx | ply => cases h; exact within_pull σ (by decide)
  | plf => cases h; exact (within_dropTop σ).trans (within_putF _ σ.top)
  | cmp _ | cpx _ | cpy _ => cases h; exact within_setCVNZ σ _
  | bit _ => cases h; exact within_setNZ σ _
  | sbc _ | sub _ | adc _ | add _ => cases h; exact within_putAlu σ _
  | shl m | shr m => cases h; exact within_rotateMem σ m _
  | sla | sra => cases h; exact within_rotateA σ _

/-- The frame of every instruction but `BRK`, in the form the statements about single instructions use. -/
theorem exec_kept {i : Instr} {σ t : State} (h : exec i σ = .next t) (hi : i ≠ .brk) :
    Kept σ t (regsWritten i) (flagsWritten i) (storedAt σ i) :=
  (exec_within h).kept (decide_eq_false hi)

/-! ## A write of the whole of F, by R and by the other flags -/

theorem State.flag_putF_r (σ : State) (v : Byte) : (σ.putF v).flag .r = false := by
  rw [State.flag_putF, if_pos rfl]

theorem State.flag_putF_of_ne (σ : State) (v : Byte) {fl : Flag} (h : fl ≠ .r) :
    (σ.putF v).flag fl = v.getLsbD (flagBit fl) := by
  rw [State.flag_putF, if_neg h, getFlag]

/-! ## Step 1: requests and interrupts -/

section step1
variable {σ : State}

/-- With no input left, step 1 takes in nothing (92_eei_decisions.md D12). -/
theorem State.takeInput_of_nil (h : σ.irqInput = []) : σ.takeInput = σ := by
  simp only [State.takeInput, h]

/-- What step 1 takes in: the next entry, joined to the requests that stand (60_exceptions.md R202). -/
theorem State.takeInput_of_cons {e : ExtRequests} {rest : List ExtRequests} (h : σ.irqInput = e :: rest) :
    σ.takeInput = { σ with
      reqReset := σ.reqReset || e.reset
      reqReact := σ.reqReact || e.react
      reqBreakExt := σ.reqBreakExt || e.brk
      irqInput := rest } := by
  simp only [State.takeInput, h]

@[simp] theorem State.takeInput_irqInput (σ : State) : σ.takeInput.irqInput = σ.irqInput.tail := by
  cases h : σ.irqInput with
  | nil => rw [State.takeInput_of_nil h, h]; rfl
  | cons e rest => rw [State.takeInput_of_cons h]; rfl

/-- A requested RESET is the one processed, whatever else is requested (60_exceptions.md R203, R205). -/
theorem State.processInterrupts_of_reset (h : σ.takeInput.reqReset = true) :
    σ.processInterrupts = σ.takeInput.clearRequests.resetEntry := by
  simp only [State.processInterrupts, State.select, h, if_true]

/-- After step 1 no request is set and one input entry is used up, in each of its four cases (R203, D11). -/
theorem State.processInterrupts_requests (σ : State) :
    σ.processInterrupts.reqReset = false ∧ σ.processInterrupts.reqReact = false ∧
      σ.processInterrupts.reqBreakExt = false ∧ σ.processInterrupts.reqBreakBrk = false ∧
      σ.processInterrupts.irqInput = σ.irqInput.tail := by
  obtain ⟨_, h⟩ | ⟨_, _, h⟩ | ⟨_, _, _, _, h⟩ | ⟨_, _, _, h⟩ := σ.processInterrupts_cases <;> simp [h]

/-- RESET leaves memory alone and F at 0. -/
theorem State.Inv.resetEntry (h : σ.Inv) : σ.resetEntry.Inv := by
  obtain ⟨hmem, _⟩ := h
  exact ⟨hmem, by simp [State.flag, getFlag]⟩

/-- An entry sets D and perhaps B, so R stays 0, and it stores by pushes alone. -/
theorem State.Inv.interruptEntry (h : σ.Inv) (vec : Address) (byBrk : Bool) : (σ.interruptEntry vec byBrk).Inv := by
  obtain ⟨hmem, hr⟩ := h
  exact ⟨State.wf_interruptEntry vec byBrk hmem, by simpa [State.flag_interruptEntry] using hr⟩

/-- Step 1 keeps the invariant, whatever it processes. -/
theorem State.Inv.processInterrupts (h : σ.Inv) : σ.processInterrupts.Inv := by
  have hclear : σ.takeInput.clearRequests.Inv := h.congr (by simp) (by simp)
  obtain ⟨_, hσ⟩ | ⟨_, _, hσ⟩ | ⟨_, _, _, _, hσ⟩ | ⟨_, _, _, hσ⟩ := σ.processInterrupts_cases <;> rw [hσ]
  · exact hclear.resetEntry
  · exact hclear.interruptEntry reactVector false
  · exact hclear.interruptEntry breakVector σ.reqBreakBrk
  · exact hclear

end step1

/-- A step that gives a next state is an instruction that completes, in the state step 1 left with P moved past it. -/
theorem exec_of_step {σ t : State} (h : step σ = .next t) :
    ∃ i, σ.processInterrupts.fetch = .ok i ∧ exec i (σ.processInterrupts.advance i) = .next t := by
  obtain ⟨i, hi, _⟩ := σ.processInterrupts.fetch_spec
  refine ⟨i, hi, ?_⟩
  simpa only [step, hi] using h

/-! ## The statements -/

/-- Settles O12: step 1 keeps the invariant, moving P does not touch it, and every instruction keeps it. -/
theorem invariantKeptByStep : Obligations.InvariantKeptByStep := by
  intro σ t hinv hstep
  obtain ⟨i, _, hexec⟩ := exec_of_step hstep
  have hadvance : (σ.processInterrupts.advance i).Inv := hinv.processInterrupts.congr rfl rfl
  exact (exec_within hexec).inv hadvance

/-- Settles O14: the flags of the instruction's footprint are those of the table of R25. -/
theorem flagsOutsideTheTableAreKept : Obligations.FlagsOutsideTheTableAreKept :=
  fun _ _ _ h => (exec_within h).flags

/-- Settles O15: the registers of the instruction's footprint are those of the writers' lists. -/
theorem registersOutsideTheListsAreKept : Obligations.RegistersOutsideTheListsAreKept :=
  fun _ _ _ h => (exec_within h).regs

/-- Settles O17: P is in the footprint of the control transfers alone. -/
theorem onlyControlTransferWritesP : Obligations.OnlyControlTransferWritesP :=
  fun _ _ _ h => (exec_within h).p

/-- Settles O23, from the two cases of the input and from what every case of step 1 leaves. -/
theorem requestsTakenInAndDropped : Obligations.RequestsTakenInAndDropped := by
  refine ⟨fun σ h => State.takeInput_of_nil h, fun σ e rest h => ?_, State.processInterrupts_requests⟩
  rw [State.takeInput_of_cons h]
  exact ⟨rfl, rfl, rfl, rfl⟩

/-- Settles O24: step 1 is the RESET entry, whose fields are those of R205. -/
theorem resetZeroesTheRegisters : Obligations.ResetZeroesTheRegisters := by
  intro σ hreset
  have hp : (σ.takeInput.readWord resetVector).toNat = (σ.read 0xFFFE#16).toNat + 256 * (σ.read 0xFFFF#16).toNat := by
    have hnext : resetVector + 1#16 = 0xFFFF#16 := by decide
    rw [State.readWord, hnext, word_toNat, State.read_takeInput, State.read_takeInput, resetVector]
    omega
  rw [State.processInterrupts_of_reset hreset]
  exact ⟨rfl, rfl, rfl, rfl, rfl, hp, by simp, rfl, rfl, rfl, rfl, by simp⟩

/-- Settles O49: both are `WriteF`, of the pulled byte and of A. -/
theorem plfAndTafWriteTheWholeOfF : Obligations.PlfAndTafWriteTheWholeOfF := by
  refine ⟨⟨rfl, rfl, rfl⟩, ⟨rfl, rfl, rfl⟩, fun σ => ⟨?plf, ?taf⟩⟩
  case plf =>
    have hexec : exec .plf σ = .next (σ.dropTop.putF σ.top) := rfl
    exact ⟨_, hexec, by simp, fun _ => State.flag_putF_of_ne _ _, State.flag_putF_r _ _, rfl,
      exec_kept hexec (by decide)⟩
  case taf =>
    have hexec : exec .taf σ = .next (σ.putF σ.a) := rfl
    exact ⟨_, hexec, fun _ => State.flag_putF_of_ne _ _, State.flag_putF_r _ _, rfl, exec_kept hexec (by decide)⟩

/-- Settles O13. -/
theorem invariantAtReset : Obligations.InvariantAtReset := ⟨Memory.wf_reset, rfl⟩

/-- Settles O33: the byte and the cycle by the tables, the next state by the meaning of `BRK`. -/
theorem brkOnlyRaisesItsRequest : Obligations.BrkOnlyRaisesItsRequest :=
  ⟨⟨rfl, rfl, rfl⟩, fun _ => rfl⟩

/-- Settles O40: R = 0 decides both conditions, and the target is that of mode REL. -/
theorem jfrAlwaysAndJtrNeverJumps : Obligations.JfrAlwaysAndJtrNeverJumps := by
  rintro o σ ⟨_, hr⟩
  have hjfr : exec (.jfr o) σ = exec (.jmp (.rel o)) σ := by
    simp [exec, execJfr, execJmp, State.jumpIf, hr]
  exact ⟨⟨_, hjfr, rfl⟩, hjfr, by simp [exec, execJtr, State.jumpIf, hr]⟩

end Sys2Proof.Machine

/-! ## Memory, the stack and the addressing modes

The rules of 20_memory.md and the addressing modes of 30_encoding.md, with every word and address read as a number. -/

namespace Sys2Proof.Machine

/-! ### Words and addresses as numbers -/

/-- The stack location of an index as a number (20_memory.md R46). -/
theorem stackAddr_toNat (i : Byte) : (stackAddr i).toNat = 256 + i.toNat := word_toNat _ _

/-- A zero-page address is its LSB (20_memory.md R45). -/
theorem zeroPage_toNat (l : Byte) : (zeroPage l).toNat = l.toNat := by
  rw [zeroPage, word_toNat, BitVec.toNat_zero, Nat.zero_mul, Nat.zero_add]

theorem zeroPage_eq_ofNat (l : Byte) : zeroPage l = BitVec.ofNat 16 l.toNat := by
  rw [← zeroPage_toNat, BitVec.ofNat_toNat, BitVec.setWidth_eq]

/-- `zext_16` keeps the number (00_scope.md R7). -/
theorem zext16_toNat (b : Byte) : (zext16 b).toNat = b.toNat := BitVec.toNat_setWidth_of_le (by decide)

/-- `sext_16` modulo 65536: a byte from 128 on stands for itself less 256 (00_scope.md R7). -/
theorem sext16_toNat (b : Byte) : (sext16 b).toNat = if b.toNat < 128 then b.toNat else b.toNat + 0xFF00 := by
  have hext : (b.setWidth 16).toNat = b.toNat := zext16_toNat b
  rw [sext16, BitVec.toNat_signExtend, hext, BitVec.msb_eq_decide]
  by_cases hb : b.toNat < 128
  · simp [hb]
  · simp [hb, Nat.le_of_not_lt hb]

/-- An index added to an address wraps modulo 65536 (20_memory.md R44). -/
theorem add_zext16_toNat (w : Address) (i : Byte) : (w + zext16 i).toNat = (w.toNat + i.toNat) % 65536 := by
  rw [BitVec.toNat_add, zext16_toNat]

/-- An index added to a zero-page address wraps modulo 256 (20_memory.md R44). -/
theorem zeroPage_add_toNat (l i : Byte) : (zeroPage (l + i)).toNat = (l.toNat + i.toNat) % 256 := by
  rw [zeroPage_toNat, BitVec.toNat_add]

/-! ### Reading after a store -/

section store
variable (σ : State) (v : Byte)

theorem State.read_store_same (a : Address) : (σ.store a v).read a = v := by
  rw [State.read_store, if_pos rfl]

theorem State.read_store_of_ne {a b : Address} (h : b ≠ a) : (σ.store a v).read b = σ.read b := by
  rw [State.read_store, if_neg h]

/-- A byte that nothing has defined is that of the initial image (20_memory.md R50). -/
theorem State.read_of_lookup_none {b : Address} (h : Memory.lookup σ.mem b.toNat = none) :
    σ.read b = Config.memInit b := by
  rw [State.read, Memory.read, h, Option.getD_none]

end store

/-! ### Pointers in memory -/

section pointers
variable (σ : State)

/-- A pointer lies little-endian (20_memory.md R41). -/
theorem State.readWord_toNat (w : Address) :
    (σ.readWord w).toNat = (σ.read w).toNat + 256 * (σ.read (BitVec.ofNat 16 (w.toNat + 1))).toNat := by
  have hnext : w + 1#16 = BitVec.ofNat 16 (w.toNat + 1) := by
    rw [BitVec.ofNat_add, BitVec.ofNat_toNat, BitVec.setWidth_eq]
  rw [State.readWord, hnext, word_toNat, Nat.mul_comm, Nat.add_comm]

/-- A zero-page pointer lies little-endian, and its MSB does not leave the zero page (20_memory.md R41, R44). -/
theorem State.readZeroPageWord_toNat (z : Byte) :
    (σ.readZeroPageWord z).toNat = (σ.read (BitVec.ofNat 16 z.toNat)).toNat +
      256 * (σ.read (BitVec.ofNat 16 ((z.toNat + 1) % 256))).toNat := by
  have hnext : (z + 1#8).toNat = (z.toNat + 1) % 256 := BitVec.toNat_add z 1#8
  rw [State.readZeroPageWord, zeroPage_eq_ofNat z, zeroPage_eq_ofNat (z + 1#8), hnext, word_toNat, Nat.mul_comm,
    Nat.add_comm]

/-- Every mode but IMM takes its data byte from memory. -/
theorem dataOf_of_ne_imm {m : Operand} (h : m.mode ≠ .imm) : dataOf σ m = σ.read (addrOf σ m) := by
  cases m with
  | imm b => exact absurd rfl h
  | abs | abx | aby | rel | zpg | zpx | zpy | vec | zvx | zyv => rfl

/-- Mode REL counts from the opcode's own address, two bytes before the P it runs with (30_encoding.md R68, R75). -/
theorem addrOf_rel_toNat {ia : Address} (h : σ.p = ia + 2#16) (o : Byte) :
    (addrOf σ (.rel o)).toNat = (ia.toNat + if o.toNat < 128 then o.toNat else o.toNat + 0xFF00) % 65536 := by
  rw [addrOf, h, BitVec.add_sub_cancel, BitVec.toNat_add, sext16_toNat]

end pointers

/-! ### The stack -/

section stack
variable (σ : State) (v : Byte)

theorem State.read_push_same : (σ.push v).read (stackAddr σ.s) = v := by
  rw [State.read_push, if_pos rfl]

theorem State.read_push_of_ne {b : Address} (h : b ≠ stackAddr σ.s) : (σ.push v).read b = σ.read b := by
  rw [State.read_push, if_neg h]

/-- A push takes 1 from S modulo 256 (20_memory.md R47, R49). -/
theorem State.push_s_toNat : (σ.push v).s.toNat = (σ.s.toNat + 255) % 256 := by
  rw [State.push_s, BitVec.toNat_sub, Nat.add_comm]; rfl

/-- A pull adds 1 to S modulo 256 (20_memory.md R48, R49). -/
theorem State.dropTop_s_toNat : σ.dropTop.s.toNat = (σ.s.toNat + 1) % 256 := BitVec.toNat_add σ.s 1#8

/-- A pull after a push restores S. -/
theorem State.dropTop_push_s : (σ.push v).dropTop.s = σ.s := BitVec.sub_add_cancel σ.s 1#8

/-- The byte a pull answers stands where S then points (20_memory.md R48). -/
theorem State.top_eq_read : σ.top = σ.read (stackAddr σ.dropTop.s) := rfl

/-- A pull after a push answers the pushed byte. -/
@[simp] theorem State.top_push : (σ.push v).top = v := by
  rw [State.top_eq_read, State.dropTop_push_s, State.read_push_same]

end stack

/-! ### The instructions of the stack -/

/-- An F that `SetNZ` wrote shows N and Z of the result as a number (10_state.md R20, R24). -/
theorem showsNZ_of_f {t : State} {f r : Byte} (h : t.f = setNZ f r) : ShowsNZ t r := by
  have hzero : (r == 0x00#8) = decide (r.toNat = 0) := by
    rw [Bool.eq_iff_iff, beq_iff_eq, decide_eq_true_iff, ← BitVec.toNat_inj]; rfl
  have hflag (fl : Flag) : t.flag fl = getFlag (setNZ f r) fl := congrArg (getFlag · fl) h
  constructor
  · rw [hflag, getFlag_setNZ, if_neg (by decide), if_pos rfl, getLsbD_seven]
  · rw [hflag, getFlag_setNZ, if_pos rfl, hzero]

/-- An instruction whose meaning is `Push(v)` (20_memory.md R47). -/
theorem pushes_of_exec {i : Instr} {σ : State} {v : Byte} (h : exec i σ = .next (σ.push v)) : Pushes i σ v :=
  ⟨_, h, σ.read_push_same v, σ.push_s_toNat v, rfl, (within_push σ v).kept rfl⟩

/-- An instruction whose meaning is `Pull()` into a register other than S, N and Z from it (20_memory.md R48). -/
theorem pulls_of_exec {i : Instr} {σ : State} {r : Reg} (hr : r ≠ .s)
    (h : exec i σ = .next (σ.dropTop.setRegNZ r σ.top)) : Pulls i σ r := by
  have hs : (σ.dropTop.setRegNZ r σ.top).s = σ.dropTop.s := by rw [State.setRegNZ_s, if_neg hr]
  have hreg : (σ.dropTop.setRegNZ r σ.top).reg r = σ.top := by rw [State.setRegNZ_reg, if_pos rfl]
  refine ⟨_, h, ?index, ?byte, ?flags, State.setRegNZ_p _ _ _, (within_pull σ hr).kept rfl⟩
  case index => rw [hs, State.dropTop_s_toNat]
  case byte => rw [hreg, hs, State.top_eq_read]
  case flags => rw [hreg]; exact showsNZ_of_f (State.setRegNZ_f _ _ _)

/-! ### The statements -/

/-- Settles O5: a byte is the one stored there, or else as before; the registers are not memory. -/
theorem readAfterStore : Obligations.ReadAfterStore := fun σ a v =>
  ⟨σ.read_store_same v a, fun _ => σ.read_store_of_ne v, σ.reg_store a v, rfl, rfl, fun _ => σ.read_of_lookup_none⟩

/-- Settles O6, from the rules of the push and the pull. -/
theorem stackPushThenPull : Obligations.StackPushThenPull := fun σ v =>
  ⟨σ.read_push_same v, σ.push_s_toNat v, fun _ => σ.read_push_of_ne v, σ.dropTop_s_toNat, σ.top_eq_read,
    σ.read_dropTop, σ.top_push v, σ.dropTop_push_s v⟩

/-- Settles O8: each mode by the arithmetic of its sum and of its pointer. -/
theorem addressingModesComputeAddr : Obligations.AddressingModesComputeAddr := by
  intro σ w b
  refine ⟨rfl, add_zext16_toNat w σ.x, add_zext16_toNat w σ.y, fun ia h => addrOf_rel_toNat σ h b, zeroPage_toNat b,
    zeroPage_add_toNat b σ.x, zeroPage_add_toNat b σ.y, σ.readWord_toNat w, ?zvx, ?zyv, fun m => dataOf_of_ne_imm σ⟩
  case zvx => rw [addrOf, add_zext16_toNat, State.readZeroPageWord_toNat]
  case zyv => rw [addrOf, State.readZeroPageWord_toNat, BitVec.toNat_add, Nat.mod_add_mod]

/-- Settles O16: the stores of the instruction's footprint are those of the table of R43. -/
theorem bytesOutsideTheStoresAreKept : Obligations.BytesOutsideTheStoresAreKept :=
  fun _ _ _ h => (exec_within h).memory

/-- Settles O47: each of the four is `Push` of its register. -/
theorem pushesStoreAtTheStack : Obligations.PushesStoreAtTheStack :=
  ⟨⟨rfl, rfl, rfl⟩, ⟨rfl, rfl, rfl⟩, ⟨rfl, rfl, rfl⟩, ⟨rfl, rfl, rfl⟩, fun _ =>
    ⟨pushes_of_exec rfl, pushes_of_exec rfl, pushes_of_exec rfl, pushes_of_exec rfl⟩⟩

/-- Settles O7: the bounds by the number of the stack location, the two wraps at their boundary indices. -/
theorem stackStaysInItsPage : Obligations.StackStaysInItsPage := by
  refine ⟨fun i => ?page, fun σ v hs => ?push, fun σ hs => ?pull⟩
  case page =>
    have hloc := stackAddr_toNat i
    have hi := i.isLt
    omega
  case push =>
    have hread := σ.read_push_same v
    rw [hs] at hread
    exact ⟨hread, by rw [State.push_s, hs]; rfl⟩
  case pull =>
    have hdrop : σ.dropTop.s = 0x00#8 := by rw [State.dropTop_s, hs]; rfl
    exact ⟨by rw [State.top_eq_read, hdrop]; rfl, hdrop⟩

/-- Settles O48: each of the three is `Pull` into its register. -/
theorem pullsLoadFromTheStack : Obligations.PullsLoadFromTheStack :=
  ⟨⟨rfl, rfl, rfl⟩, ⟨rfl, rfl, rfl⟩, ⟨rfl, rfl, rfl⟩, fun _ =>
    ⟨pulls_of_exec (by decide) rfl, pulls_of_exec (by decide) rfl, pulls_of_exec (by decide) rfl⟩⟩

end Sys2Proof.Machine

/-! ## Encoding and decoding

The decoder is written from the map of R78 and the encoder from the rows of R77; that they agree is one fact about a
cell of the map (`opcodeCell_of_opcodeOf`, the other direction of `opcodeCell_spec`). From it `decode_eq_ok_iff` says
what `decode` answers in terms of the encoder, and `State.fetch_eq_ok_iff` what a fetch answers. -/

namespace Sys2Proof

open Machine (lo hi word)

/-- Every instruction has the law of `Laws/PerInstr.lean`: it is well formed exactly if it has an opcode. -/
theorem Laws.opcodeExists : ∀ i, Laws.OpcodeExists.Statement i := by
  open Laws.OpcodeExists in
  intro i
  cases i with
  | inv op => exact inv op
  | nop => exact nop | brk => exact brk | rti => exact rti | ret => exact ret
  | for_ b => exact for_ b | fnd b => exact fnd b
  | app => exact app | amm => exact amm | spp => exact spp | smm => exact smm
  | xpp => exact xpp | xmm => exact xmm | ypp => exact ypp | ymm => exact ymm
  | inc m => exact inc m | dec m => exact dec m
  | jfb o => exact jfb o | jfc o => exact jfc o | jfd o => exact jfd o | jfn o => exact jfn o
  | jfr o => exact jfr o | jfu o => exact jfu o | jfv o => exact jfv o | jfz o => exact jfz o
  | jtb o => exact jtb o | jtc o => exact jtc o | jtd o => exact jtd o | jtn o => exact jtn o
  | jtr o => exact jtr o | jtu o => exact jtu o | jtv o => exact jtv o | jtz o => exact jtz o
  | jmp m => exact jmp m | cal m => exact cal m | clc => exact clc
  | lda m => exact lda m | ldx m => exact ldx m | ldy m => exact ldy m
  | sta m => exact sta m | stx m => exact stx m | sty m => exact sty m
  | pha => exact pha | phf => exact phf | phx => exact phx | phy => exact phy
  | pla => exact pla | plf => exact plf | plx => exact plx | ply => exact ply
  | taf => exact taf | tas => exact tas | tax => exact tax | tay => exact tay
  | tfa => exact tfa | tsa => exact tsa | txa => exact txa | tya => exact tya
  | cmp m => exact cmp m | cpx m => exact cpx m | cpy m => exact cpy m
  | sbc m => exact sbc m | sub m => exact sub m | adc m => exact adc m | add m => exact add m
  | bor m => exact bor m | xor m => exact xor m | and m => exact and m | bit m => exact bit m
  | not m => exact not m | nta => exact nta
  | shl m => exact shl m | shr m => exact shr m | sla => exact sla | sra => exact sra
  | zra => exact zra | zrx => exact zrx | zry => exact zry

/-- The bytes after an opcode are among the operands that the opcode map is read with: none of them, the byte `b`, or
the address `w`, LSB first. -/
def Carries (tail : List Byte) (b : Byte) (w : Address) : Prop :=
  tail = [] ∨ tail = [b] ∨ tail = [lo w, hi w]

/-- The operand of the same mode with the byte `b` or the address `w` in it. -/
def Operand.withBytes (b : Byte) (w : Address) : Operand → Operand
  | .imm _ => .imm b
  | .abs _ => .abs w
  | .abx _ => .abx w
  | .aby _ => .aby w
  | .rel _ => .rel b
  | .zpg _ => .zpg b
  | .zpx _ => .zpx b
  | .zpy _ => .zpy b
  | .vec _ => .vec w
  | .zvx _ => .zvx b
  | .zyv _ => .zyv b

section carries
variable {b c : Byte} {w v : Address}

theorem Carries.byte_eq (h : Carries [c] b w) : b = c := by
  simpa [Carries, eq_comm] using h

theorem Carries.word_eq (h : Carries [lo v, hi v] b w) : w = v := by
  have hbytes : lo v = lo w ∧ hi v = hi w := by simpa [Carries] using h
  obtain ⟨hlo, hhi⟩ := hbytes
  rw [← Machine.word_hi_lo w, ← hlo, ← hhi, Machine.word_hi_lo]

/-- The operand bytes determine the operand in its mode. -/
theorem Operand.withBytes_eq {m : Operand} (h : Carries (operandBytes m) b w) : m.withBytes b w = m := by
  cases m with
  | imm c | rel c | zpg c | zpx c | zpy c | zvx c | zyv c => rw [Operand.withBytes, h.byte_eq]
  | abs v | abx v | aby v | vec v => rw [Operand.withBytes, h.word_eq]

end carries

/-- INV has the opcode it carries, one of the five of R81. -/
theorem opcodeOf_inv_eq_some_iff {o op : Byte} : opcodeOf (.inv o) = some op ↔ o ∈ invOpcodes ∧ o = op := by
  simp [opcodeOf]

/-- The cell of an instruction's opcode by R77 holds that instruction by R78. -/
theorem opcodeCell_of_opcodeOf {i : Instr} {op b : Byte} {w : Address} (h : opcodeOf i = some op)
    (ht : Carries (tailBytes i) b w) : opcodeCell op b w = some i := by
  cases i with
  | inv o =>
    obtain ⟨ho, rfl⟩ := opcodeOf_inv_eq_some_iff.mp h
    simp only [invOpcodes, List.mem_cons, List.not_mem_nil, or_false] at ho
    obtain rfl | rfl | rfl | rfl | rfl := ho <;> rfl
  | nop | brk | rti | ret | clc | nta | sla | sra | zra | zrx | zry => cases h; rfl
  | app | amm | spp | smm | xpp | xmm | ypp | ymm => cases h; rfl
  | pha | phf | phx | phy | pla | plf | plx | ply => cases h; rfl
  | taf | tas | tax | tay | tfa | tsa | txa | tya => cases h; rfl
  | for_ c | fnd c => cases h; rw [← ht.byte_eq]; rfl
  | jfb c | jfc c | jfd c | jfn c | jfr c | jfu c | jfv c | jfz c => cases h; rw [← ht.byte_eq]; rfl
  | jtb c | jtc c | jtd c | jtn c | jtr c | jtu c | jtv c | jtz c => cases h; rw [← ht.byte_eq]; rfl
  | inc m | dec m | jmp m | cal m | lda m | ldx m | ldy m | sta m | stx m | sty m | cmp m | cpx m | cpy m
  | sbc m | sub m | adc m | add m | bor m | xor m | and m | bit m | not m | shl m | shr m =>
    -- Mode by mode, either the row of R77 is empty or its opcode's cell is the one claimed.
    rw [← Operand.withBytes_eq ht]
    cases m <;> cases h <;> rfl

/-- `opcodeCell_spec` for the instruction that a cell is known to hold. -/
theorem opcodeCell_eq_some {i : Instr} {op b : Byte} {w : Address} (h : opcodeCell op b w = some i) :
    opcodeOf i = some op ∧ instrSize i = lengthOf op ∧
      ((instrSize i = 1 ∧ tailBytes i = []) ∨ (instrSize i = 2 ∧ tailBytes i = [b]) ∨
        (instrSize i = 3 ∧ tailBytes i = [lo w, hi w])) ∧
      ∀ c v j, opcodeCell op c v = some j →
        instrMode j = instrMode i ∧ Machine.instrCycles j = Machine.instrCycles i := by
  obtain ⟨i', hi', _, hop, hsize, htail, hagree⟩ := opcodeCell_spec op b w
  obtain rfl : i = i' := Option.some.inj (h.symm.trans hi')
  refine ⟨hop, hsize, htail, fun c v j hj => ?_⟩
  obtain ⟨j', hj', _, hmode, hcycles⟩ := hagree c v
  obtain rfl : j = j' := Option.some.inj (hj.symm.trans hj')
  exact ⟨hmode, hcycles⟩

/-! ### What the decoder answers -/

section decoder
variable {i j : Instr} {op : Byte} {tl rest : List Byte}

/-- The byte after the opcode, as `decode` reads it: 0 where the list has none. -/
def operandByte (tl : List Byte) : Byte := tl.getD 0 0x00#8

/-- The address that the two bytes after the opcode form, as `decode` reads it. -/
def operandWord (tl : List Byte) : Address := word (tl.getD 1 0x00#8) (operandByte tl)

/-- `decode` reads the cell of the opcode, if the list has the bytes it asks for, and answers the bytes past them. -/
theorem decode_cons_eq_ok_iff_cell :
    decode (op :: tl) = .ok (i, rest) ↔
      opcodeCell op (operandByte tl) (operandWord tl) = some i ∧ instrSize i ≤ tl.length + 1 ∧
        tl.drop (instrSize i - 1) = rest := by
  simp only [decode, operandByte, operandWord]
  split
  next hcell =>
    rw [hcell]
    exact iff_of_false nofun fun ⟨h, _⟩ => nomatch h
  next j hcell =>
    rw [hcell, Option.some.injEq]
    split
    next hlen =>
      rw [Except.ok.injEq, Prod.mk.injEq]
      constructor
      · rintro ⟨rfl, hrest⟩
        exact ⟨rfl, hlen, hrest⟩
      · rintro ⟨rfl, _, hrest⟩
        exact ⟨rfl, hrest⟩
    next hlen =>
      refine ⟨nofun, ?_⟩
      rintro ⟨rfl, hle, _⟩
      exact absurd hle hlen

/-- Up to two bytes are carried by the operands read off any list they begin. -/
theorem carries_append {tail : List Byte} (h : tail.length ≤ 2) (rest : List Byte) :
    Carries tail (operandByte (tail ++ rest)) (operandWord (tail ++ rest)) := by
  match tail, h with
  | [], _ => exact .inl rfl
  | [x], _ => exact .inr (.inl rfl)
  | [x, y], _ =>
    have hword : operandWord ([x, y] ++ rest) = word y x := rfl
    exact .inr (.inr (by rw [hword, Machine.lo_word, Machine.hi_word]))

/-- No instruction has more than two bytes after its opcode. -/
theorem tailBytes_length_le (i : Instr) : (tailBytes i).length ≤ 2 := by
  have hoperand (m : Operand) : (operandBytes m).length ≤ 2 := by cases m <;> simp [operandBytes]
  cases i with
  | inc m | dec m | jmp m | cal m | lda m | ldx m | ldy m | sta m | stx m | sty m | cmp m | cpx m | cpy m
  | sbc m | sub m | adc m | add m | bor m | xor m | and m | bit m | not m | shl m | shr m => exact hoperand m
  | _ => simp [tailBytes]

/-- The operands to read an opcode's cell with so that it holds a given instruction. -/
theorem opcodeCell_append (h : opcodeOf i = some op) (rest : List Byte) :
    opcodeCell op (operandByte (tailBytes i ++ rest)) (operandWord (tailBytes i ++ rest)) = some i :=
  opcodeCell_of_opcodeOf h (carries_append (tailBytes_length_le i) rest)

/-- An instruction with an opcode stands in a cell of that opcode. -/
theorem exists_opcodeCell (h : opcodeOf i = some op) : ∃ b w, opcodeCell op b w = some i :=
  ⟨_, _, opcodeCell_append h []⟩

theorem encode_of_opcodeOf (h : opcodeOf i = some op) : encode i = op :: tailBytes i := by
  rw [encode, h]

theorem wf_of_opcodeOf (h : opcodeOf i = some op) : i.wf = true := by
  rw [(Laws.opcodeExists i).1, h, Option.isSome_some]

theorem opcodeOf_of_wf (h : i.wf = true) : ∃ op, opcodeOf i = some op :=
  Option.isSome_iff_exists.mp ((Laws.opcodeExists i).1 ▸ h)

/-- An instruction is its opcode and as many bytes as make up its size (R82). -/
theorem instrSize_of_opcodeOf (h : opcodeOf i = some op) : instrSize i = (tailBytes i).length + 1 := by
  rw [← (Laws.opcodeExists i).2 (wf_of_opcodeOf h), encode_of_opcodeOf h, List.length_cons]

/-- The size is the one the opcode map gives the opcode alone (R82). -/
theorem lengthOf_of_opcodeOf (h : opcodeOf i = some op) : lengthOf op = instrSize i := by
  obtain ⟨b, w, hcell⟩ := exists_opcodeCell h
  obtain ⟨_, hsize, _⟩ := opcodeCell_eq_some hcell
  exact hsize.symm

/-- The bytes after an opcode that has enough of them begin with the bytes of the instruction in its cell. -/
theorem tailBytes_append_drop (hcell : opcodeCell op (operandByte tl) (operandWord tl) = some i)
    (hlen : instrSize i ≤ tl.length + 1) : tailBytes i ++ tl.drop (instrSize i - 1) = tl := by
  obtain ⟨_, _, htail, _⟩ := opcodeCell_eq_some hcell
  obtain ⟨hsize, htail⟩ | ⟨hsize, htail⟩ | ⟨hsize, htail⟩ := htail <;> rw [hsize] at hlen ⊢ <;> rw [htail]
  · rfl
  · match tl, hlen with
    | x :: rest, _ => rfl
  · match tl, hlen with
    | x :: y :: rest, _ =>
      have hword : operandWord (x :: y :: rest) = word y x := rfl
      rw [hword, Machine.lo_word, Machine.hi_word]; rfl

/-- `decode` answers an instruction exactly if the list is its opcode by R77, its operand bytes, and the rest. -/
theorem decode_cons_eq_ok_iff :
    decode (op :: tl) = .ok (i, rest) ↔ opcodeOf i = some op ∧ tl = tailBytes i ++ rest := by
  rw [decode_cons_eq_ok_iff_cell]
  constructor
  · rintro ⟨hcell, hlen, rfl⟩
    obtain ⟨hop, _⟩ := opcodeCell_eq_some hcell
    exact ⟨hop, (tailBytes_append_drop hcell hlen).symm⟩
  · rintro ⟨hop, rfl⟩
    have hsize := instrSize_of_opcodeOf hop
    exact ⟨opcodeCell_append hop rest, by simp [hsize], by simp [hsize]⟩

/-- The same over lists: what is decoded is well formed, and the list is its encoding and the rest. -/
theorem decode_eq_ok_iff {bytes : List Byte} :
    decode bytes = .ok (i, rest) ↔ i.wf = true ∧ bytes = encode i ++ rest := by
  constructor
  · intro h
    match bytes with
    | op :: tl =>
      obtain ⟨hop, rfl⟩ := decode_cons_eq_ok_iff.mp h
      exact ⟨wf_of_opcodeOf hop, by rw [encode_of_opcodeOf hop, List.cons_append]⟩
  · rintro ⟨hwf, rfl⟩
    obtain ⟨op, hop⟩ := opcodeOf_of_wf hwf
    rw [encode_of_opcodeOf hop, List.cons_append]
    exact decode_cons_eq_ok_iff.mpr ⟨hop, rfl⟩

/-- An opcode with two bytes after it always decodes (R62). -/
theorem exists_decode_of_two_le (h : 2 ≤ tl.length) : ∃ i r, decode (op :: tl) = .ok (i, r) := by
  obtain ⟨i, hcell, _, hop, _⟩ := opcodeCell_spec op (operandByte tl) (operandWord tl)
  have hsize := instrSize_of_opcodeOf hop
  have htail := tailBytes_length_le i
  exact ⟨i, _, decode_cons_eq_ok_iff_cell.mpr ⟨hcell, by omega, rfl⟩⟩

/-- Two instructions with the same opcode differ in their operand bytes alone (R62, R82). -/
theorem agree_of_opcodeOf (hi : opcodeOf i = some op) (hj : opcodeOf j = some op) :
    instrMode j = instrMode i ∧ Machine.instrCycles j = Machine.instrCycles i := by
  obtain ⟨b, w, hicell⟩ := exists_opcodeCell hi
  obtain ⟨c, v, hjcell⟩ := exists_opcodeCell hj
  obtain ⟨_, _, _, hagree⟩ := opcodeCell_eq_some hicell
  exact hagree c v j hjcell

end decoder

/-! ### The statements -/

/-- Settles O1, from what `decode` answers. -/
theorem decodeInvertsEncode : Obligations.DecodeInvertsEncode :=
  fun _ _ hwf => decode_eq_ok_iff.mpr ⟨hwf, rfl⟩

/-- Settles O2, the other direction of O1's equivalence. -/
theorem decodedBytesAreTheEncoding : Obligations.DecodedBytesAreTheEncoding :=
  fun _ _ _ => decode_eq_ok_iff.mp

/-- Settles O3: every cell holds an instruction, and instructions of one opcode agree in mode and cycles. -/
theorem opcodeAloneDecidesDecoding : Obligations.OpcodeAloneDecidesDecoding := by
  intro op b₁ b₂ rest
  obtain ⟨i, r, hdecode⟩ := exists_decode_of_two_le (op := op) (tl := b₁ :: b₂ :: rest) (by simp)
  obtain ⟨hi, _⟩ := decode_cons_eq_ok_iff.mp hdecode
  refine ⟨i, r, hdecode, hi, rfl, (lengthOf_of_opcodeOf hi).symm, fun c₁ c₂ rest' j q hj => ?_⟩
  obtain ⟨hj, _⟩ := decode_cons_eq_ok_iff.mp hj
  obtain ⟨hmode, hcycles⟩ := agree_of_opcodeOf hi hj
  exact ⟨hj, hmode, by rw [instrSize, instrSize, hmode], hcycles⟩

/-- Settles O4: each word is the encoding of its instruction. -/
theorem sampleWordsDecode : Obligations.SampleWordsDecode :=
  ⟨decodeInvertsEncode .brk [] rfl,
    decodeInvertsEncode (.inc (.abx 0x1230#16)) [] rfl,
    decodeInvertsEncode (.jfz 0xFD#8) [] rfl,
    decodeInvertsEncode (.cal (.zyv 0x20#8)) [] rfl,
    decodeInvertsEncode (.lda (.zvx 0x20#8)) [] rfl,
    decodeInvertsEncode .phf [] rfl,
    decodeInvertsEncode (.sub (.vec 0x1234#16)) [] rfl,
    decodeInvertsEncode (.and (.aby 0x1000#16)) [] rfl,
    decodeInvertsEncode (.shr (.zpx 0x10#8)) [] rfl⟩

end Sys2Proof

/-! ### What a fetch and a step answer -/

namespace Sys2Proof.Machine

section bytesAt
variable {σ τ : State} {a : Address} {n : Nat} {bytes rest : List Byte}

/-- The bytes from an address on are a given list exactly if each reads as the list says. -/
theorem State.bytesAt_eq_iff (h : bytes.length = n) :
    σ.bytesAt a n = bytes ↔ ∀ (k : Nat) (hk : k < bytes.length), σ.read (a + BitVec.ofNat 16 k) = bytes[k] := by
  constructor
  · rintro rfl k hk
    exact (σ.bytesAt_getElem a n k hk).symm
  · intro hread
    have hlen : (σ.bytesAt a n).length = bytes.length := (σ.bytesAt_length a n).trans h.symm
    exact List.ext_getElem hlen fun k hk hk' => (σ.bytesAt_getElem a n k hk).trans (hread k hk')

/-- The first of the bytes from an address on is the byte at that address. -/
theorem State.read_of_bytesAt_cons {v : Byte} (h : σ.bytesAt a n = v :: bytes) : σ.read a = v := by
  cases n with
  | zero => cases h
  | succ n => exact (List.cons.inj h).1

theorem State.bytesAt_congr
    (h : ∀ k < n, τ.read (a + BitVec.ofNat 16 k) = σ.read (a + BitVec.ofNat 16 k)) :
    τ.bytesAt a n = σ.bytesAt a n := by
  have hlen := σ.bytesAt_length a n
  refine (State.bytesAt_eq_iff hlen).mpr fun k hk => ?_
  rw [State.bytesAt_getElem]
  exact h k (hlen ▸ hk)

/-- The bytes from an address on, cut short. -/
theorem State.bytesAt_of_append (h : σ.bytesAt a n = bytes ++ rest) :
    σ.bytesAt a bytes.length = bytes := by
  have hn : (bytes ++ rest).length = n := by rw [← h, State.bytesAt_length]
  refine (State.bytesAt_eq_iff rfl).mpr fun k hk => ?_
  rw [(State.bytesAt_eq_iff hn).mp h k (by rw [List.length_append]; omega), List.getElem_append_left hk]

end bytesAt

section fetch
variable {σ : State} {i : Instr}

/-- The encoding of an instruction is as long as its size (R82). -/
theorem encode_length (h : i.wf = true) : (encode i).length = instrSize i := (Laws.opcodeExists i).2 h

/-- A fetch answers an instruction exactly if its encoding stands at P. -/
theorem State.fetch_eq_ok_iff :
    σ.fetch = .ok i ↔ i.wf = true ∧ σ.bytesAt σ.p (instrSize i) = encode i := by
  have hfetch : σ.fetch = .ok i ↔ ∃ rest, decode σ.fetchBytes = .ok (i, rest) := by
    unfold State.fetch
    split
    next j rest hdecode => simp [hdecode]
    next e hdecode => simp [hdecode]
  rw [hfetch]
  constructor
  · rintro ⟨rest, hdecode⟩
    obtain ⟨hwf, hbytes⟩ := decode_eq_ok_iff.mp hdecode
    obtain ⟨op, hop⟩ := opcodeOf_of_wf hwf
    have hread : σ.read σ.p = op := by
      rw [State.fetchBytes, encode_of_opcodeOf hop, List.cons_append] at hbytes
      exact State.read_of_bytesAt_cons hbytes
    rw [State.fetchBytes, hread, lengthOf_of_opcodeOf hop] at hbytes
    have hencoded := State.bytesAt_of_append hbytes
    rw [encode_length hwf] at hencoded
    exact ⟨hwf, hencoded⟩
  · rintro ⟨hwf, hbytes⟩
    obtain ⟨op, hop⟩ := opcodeOf_of_wf hwf
    have hread : σ.read σ.p = op := State.read_of_bytesAt_cons (hbytes.trans (encode_of_opcodeOf hop))
    have hfetched : σ.fetchBytes = encode i ++ [] := by
      rw [State.fetchBytes, hread, lengthOf_of_opcodeOf hop, hbytes, List.append_nil]
    exact ⟨[], decode_eq_ok_iff.mpr ⟨hwf, hfetched⟩⟩

/-- A step runs the instruction that stands at P after step 1, with P moved past it (R61, R75). -/
theorem step_of_fetch (h : σ.processInterrupts.fetch = .ok i) :
    step σ = exec i (σ.processInterrupts.advance i) := by
  simp only [step, h]

end fetch

/-! ### INV and the other instructions -/

section inv
variable {σ : State} {i : Instr} {op : Byte}

/-- No instruction but INV has one of the five opcodes of R81. -/
theorem eq_inv_of_mem_invOpcodes (h : opcodeOf i = some op) (hop : op ∈ invOpcodes) : i = .inv op := by
  have hinv : opcodeOf (.inv op) = some op := opcodeOf_inv_eq_some_iff.mpr ⟨hop, rfl⟩
  obtain ⟨b, w, hcell⟩ := exists_opcodeCell h
  exact Option.some.inj (hcell.symm.trans (opcodeCell_of_opcodeOf hinv (.inl rfl)))

/-- Every instruction but INV completes, in every state. -/
theorem exec_completes (σ : State) (h : ∀ op, i ≠ .inv op) : ∃ t, exec i σ = .next t := by
  cases i with
  | inv op => exact absurd rfl (h op)
  | _ => exact ⟨_, rfl⟩

/-- INV stops with its opcode and the address P - 1 (R100, D13). -/
theorem exec_inv (op : Byte) (σ : State) : exec (.inv op) σ = .fault (.invalidOpcode op (σ.p - 1#16)) := rfl

end inv

/-! ### The statements -/

/-- Settles O9: the encoding at P is the opcode and `b`, so `b` stands at P + 1, which is one less than P past it. -/
theorem immediateOperandIsTheByteAtAddr : Obligations.ImmediateOperandIsTheByteAtAddr := by
  intro σ i b hfetch hmode htail
  obtain ⟨hwf, hbytes⟩ := State.fetch_eq_ok_iff.mp hfetch
  obtain ⟨op, hop⟩ := opcodeOf_of_wf hwf
  have hsize : instrSize i = 2 := by rw [instrSize, hmode]; rfl
  have hread : σ.read (σ.p + 1#16) = b := by
    rw [encode_of_opcodeOf hop, htail, hsize, State.bytesAt] at hbytes
    exact State.read_of_bytesAt_cons (List.cons.inj hbytes).2
  have haddr : addrOf (σ.advance i) (.imm b) = σ.p + 1#16 := by
    rw [addrOf, State.advance_p, hsize]
    bv_omega
  exact ⟨haddr, hread, rfl⟩

/-- Settles O10: the fetch answers the instruction whose bytes stand at P, and its size is their number. -/
theorem stepRunsTheDecodedInstruction : Obligations.StepRunsTheDecodedInstruction := by
  intro σ i hwf hread
  have hlen := encode_length hwf
  rw [step_of_fetch (State.fetch_eq_ok_iff.mpr ⟨hwf, (State.bytesAt_eq_iff hlen).mpr hread⟩), hlen]
  rfl

/-- Settles O11: a fetch always answers, and of all instructions INV alone does not complete. -/
theorem machineStopsOnlyOnInv : Obligations.MachineStopsOnlyOnInv := by
  intro σ
  obtain ⟨i, hfetch, _, hop⟩ := σ.processInterrupts.fetch_spec
  rw [step_of_fetch hfetch]
  split
  next hmem =>
    have hia (op : Byte) : (σ.processInterrupts.advance (.inv op)).p - 1#16 = σ.processInterrupts.p :=
      BitVec.add_sub_cancel _ 1#16
    rw [eq_inv_of_mem_invOpcodes hop hmem, exec_inv, hia]
  next hmem =>
    refine exec_completes _ fun o hi => hmem ?_
    obtain ⟨ho, heq⟩ := opcodeOf_inv_eq_some_iff.mp (hi ▸ hop)
    exact heq ▸ ho

/-- Settles O31: the forms by R81 and the tables, the fault by the meaning of INV. -/
theorem invFaults : Obligations.InvFaults := by
  refine ⟨fun op hop => ⟨decide_eq_true hop, ?_, rfl⟩, exec_inv⟩
  exact encode_of_opcodeOf (opcodeOf_inv_eq_some_iff.mpr ⟨hop, rfl⟩)

end Sys2Proof.Machine

/-! ### Where a harness places a word

Placing bytes changes memory alone, so step 1 takes the same case as before; it then leaves P at the placed bytes, and
its pushes stay in the stack page, below them. -/

namespace Sys2Proof.Machine

section storeBytes
variable (σ : State) {a b : Address} {vs : List Byte}

/-- Storing bytes changes memory and nothing else. -/
theorem State.storeBytes_eq (a : Address) (vs : List Byte) : ∃ m, σ.storeBytes a vs = { σ with mem := m } := by
  induction vs generalizing σ a with
  | nil => exact ⟨σ.mem, rfl⟩
  | cons v rest ih =>
    obtain ⟨m, hm⟩ := ih (σ.store a v) (a + 1#16)
    exact ⟨m, hm⟩

/-- Bytes stored from `a` on leave an address that lies past them, counted upwards from `a` modulo 65536. -/
theorem State.read_storeBytes_of_le (h : vs.length ≤ (b - a).toNat) : (σ.storeBytes a vs).read b = σ.read b := by
  induction vs generalizing σ a with
  | nil => rfl
  | cons v rest ih =>
    rw [List.length_cons] at h
    have hne : b ≠ a := by bv_omega
    have hrest : rest.length ≤ (b - (a + 1#16)).toNat := by bv_omega
    rw [State.storeBytes, ih _ hrest, State.read_store_of_ne _ _ hne]

/-- Bytes stored from `a` on stand there, if they do not wrap onto themselves. -/
theorem State.bytesAt_storeBytes (h : vs.length ≤ 65536) : (σ.storeBytes a vs).bytesAt a vs.length = vs := by
  induction vs generalizing σ a with
  | nil => rfl
  | cons v rest ih =>
    rw [List.length_cons] at h
    have hpast : rest.length ≤ (a - (a + 1#16)).toNat := by bv_omega
    rw [State.storeBytes, List.length_cons, State.bytesAt, ih _ (by omega), State.read_storeBytes_of_le _ hpast,
      State.read_store_same]

end storeBytes

section nextVector
variable {σ : State} {v : Address}

/-- The vectors lie in the top six bytes of memory (60_exceptions.md R208). -/
theorem State.nextVector_bounds (h : σ.nextVector = some v) : 0xFFFA ≤ v.toNat ∧ v.toNat ≤ 0xFFFE := by
  unfold State.nextVector at h
  split at h <;> cases h <;> decide

/-- Where no vector is next, step 1 processes no interrupt. -/
theorem State.processInterrupts_of_nextVector_none (h : σ.nextVector = none) :
    σ.processInterrupts = σ.takeInput.clearRequests := by
  unfold State.nextVector at h
  cases hselect : σ.takeInput.select with
  | none => simp only [State.processInterrupts, hselect]
  | reset | react | brk => rw [hselect] at h; cases h

/-- Step 1 stores in the stack page alone. -/
theorem State.read_processInterrupts_of_le {b : Address} (h : 0x0200 ≤ b.toNat) :
    σ.processInterrupts.read b = σ.read b := by
  have hstack (j : Byte) : b ≠ stackAddr j := by
    rintro rfl
    have hloc := stackAddr_toNat j
    have hj := j.isLt
    omega
  obtain ⟨_, hσ⟩ | ⟨_, _, hσ⟩ | ⟨_, _, _, _, hσ⟩ | ⟨_, _, _, hσ⟩ := σ.processInterrupts_cases <;>
    simp [hσ, State.read_interruptEntry, hstack]

/-- Where a vector is next, step 1 takes P from it: neither entry stores where it then reads. -/
theorem State.processInterrupts_p_of_nextVector (h : σ.nextVector = some v) :
    σ.processInterrupts.p = σ.readWord v := by
  obtain ⟨hlow, hhigh⟩ := State.nextVector_bounds h
  have hp : σ.processInterrupts.p = σ.processInterrupts.readWord v := by
    unfold State.nextVector at h
    cases hselect : σ.takeInput.select with
    | none => rw [hselect] at h; cases h
    | reset | react | brk =>
      rw [hselect] at h; cases h
      simp only [State.processInterrupts, hselect]; rfl
  have hnext : 0x0200 ≤ (v + 1#16).toNat := by bv_omega
  rw [hp, State.readWord, State.read_processInterrupts_of_le hnext, State.read_processInterrupts_of_le (by omega),
    State.readWord]

end nextVector

section placeNext
variable (σ : State) {bytes : List Byte}

/-- What step 1 will do does not depend on memory. -/
theorem State.nextVector_storeBytes (a : Address) (vs : List Byte) :
    (σ.storeBytes a vs).nextVector = σ.nextVector := by
  obtain ⟨m, hm⟩ := σ.storeBytes_eq a vs
  have htake : ({ σ with mem := m } : State).takeInput = { σ.takeInput with mem := m } := by
    simp only [State.takeInput]
    split <;> rfl
  rw [hm, State.nextVector, htake]
  rfl

theorem State.storeBytes_p (a : Address) (vs : List Byte) : (σ.storeBytes a vs).p = σ.p := by
  obtain ⟨m, hm⟩ := σ.storeBytes_eq a vs
  rw [hm]

/-- A stored vector names the address it was given. -/
theorem State.readWord_storeBytes (v w : Address) : (σ.storeBytes v [lo w, hi w]).readWord v = w := by
  have hbytes := σ.bytesAt_storeBytes (a := v) (vs := [lo w, hi w]) (by simp)
  have hlo := State.read_of_bytesAt_cons hbytes
  have hhi := State.read_of_bytesAt_cons (List.cons.inj hbytes).2
  rw [State.readWord, hlo, hhi, word_hi_lo]

/-- After step 1 the bytes that a harness placed stand at P, whether step 1 enters a handler or not. -/
theorem State.bytesAt_placeNext (h : bytes.length ≤ 3) :
    (σ.placeNext bytes).processInterrupts.bytesAt (σ.placeNext bytes).processInterrupts.p bytes.length = bytes := by
  unfold State.placeNext
  split
  next hnone =>
    have hplaced := State.processInterrupts_of_nextVector_none ((σ.nextVector_storeBytes σ.p bytes).trans hnone)
    have hp : (σ.storeBytes σ.p bytes).processInterrupts.p = σ.p := by
      rw [hplaced, State.clearRequests_p, State.takeInput_p, State.storeBytes_p]
    rw [hp, hplaced]
    exact (State.bytesAt_congr fun k _ => by simp).trans (σ.bytesAt_storeBytes (by omega))
  next v hsome =>
    obtain ⟨hlow, hhigh⟩ := State.nextVector_bounds hsome
    have hplaced : ((σ.storeBytes programBase bytes).storeBytes v [lo programBase, hi programBase]).nextVector =
        some v := by
      rw [State.nextVector_storeBytes, State.nextVector_storeBytes, hsome]
    rw [State.processInterrupts_p_of_nextVector hplaced, State.readWord_storeBytes]
    refine (State.bytesAt_congr fun k hk => ?_).trans (σ.bytesAt_storeBytes (by omega))
    have hbase : (programBase + BitVec.ofNat 16 k).toNat = 0x0200 + k := by
      rw [programBase, BitVec.toNat_add, BitVec.toNat_ofNat, BitVec.toNat_ofNat]
      omega
    have hvector : 2 ≤ (programBase + BitVec.ofNat 16 k - v).toNat := by
      rw [BitVec.toNat_sub, hbase]
      omega
    rw [State.read_processInterrupts_of_le (by omega)]
    exact State.read_storeBytes_of_le _ hvector

end placeNext

/-- A table word that decodes to an instruction begins with its encoding. -/
theorem tableBytes_of_decodeTableWord {nbits w : Nat} {i : Instr} (h : decodeTableWord nbits w = some i) :
    i.wf = true ∧ ∃ rest, tableBytes nbits w = encode i ++ rest := by
  unfold decodeTableWord at h
  split at h
  next j rest hdecode =>
    obtain rfl : j = i := Option.some.inj h
    obtain ⟨hwf, hbytes⟩ := decode_eq_ok_iff.mp hdecode
    exact ⟨hwf, rest, hbytes⟩
  next => cases h

/-- Settles O22: after step 1 the word's bytes stand at P, so its instruction is the one fetched. -/
theorem placedWordIsTheNextInstruction : Obligations.PlacedWordIsTheNextInstruction := by
  intro σ nbits w i hword
  obtain ⟨hwf, rest, hbytes⟩ := tableBytes_of_decodeTableWord hword
  have hplaced := σ.bytesAt_placeNext (bytes := tableBytes nbits w) (Nat.le_refl 3)
  have hencoded := State.bytesAt_of_append (hplaced.trans hbytes)
  rw [encode_length hwf] at hencoded
  exact step_of_fetch (State.fetch_eq_ok_iff.mpr ⟨hwf, hencoded⟩)

end Sys2Proof.Machine

/-! ## The system instructions and the return from a call

The rules of 40_system.md beyond INV and BRK. What a pull of P or a return from an interrupt reads is said by the three
stack locations above S, and what a call or an interrupt entry pushes by the locations from S down; that each return
undoes its entry is then arithmetic on the index. -/

namespace Sys2Proof.Machine

/-! ### What the pulls of P read -/

section pulls
variable {σ τ : State}

/-- What is read depends on memory alone. -/
theorem State.read_congr (h : τ.mem = σ.mem) (b : Address) : τ.read b = σ.read b :=
  congrArg (Memory.read · b) h

variable (σ)

/-- Pulling P moves S by two. -/
theorem State.pullP_s_eq : σ.pullP.s = σ.s + 2#8 := BitVec.add_assoc σ.s 1#8 1#8

/-- A return from an interrupt moves S by three. -/
theorem State.returnFromInterrupt_s_eq : σ.returnFromInterrupt.s = σ.s + 3#8 := by
  rw [State.returnFromInterrupt_s, BitVec.add_assoc, BitVec.add_assoc]; rfl

/-- P is pulled from the two locations above S, its LSB from the lower (40_system.md R104). -/
theorem State.pullP_p_eq :
    σ.pullP.p = word (σ.read (stackAddr (σ.s + 2#8))) (σ.read (stackAddr (σ.s + 1#8))) := by
  rw [← State.pullP_s_eq]; rfl

/-- F is pulled from the location above S (40_system.md R103). -/
theorem State.returnFromInterrupt_f_eq :
    σ.returnFromInterrupt.f = writeF (σ.read (stackAddr (σ.s + 1#8))) := rfl

/-- P is pulled from the two locations above that of F (40_system.md R103). -/
theorem State.returnFromInterrupt_p_eq :
    σ.returnFromInterrupt.p = word (σ.read (stackAddr (σ.s + 3#8))) (σ.read (stackAddr (σ.s + 2#8))) := by
  have hlsb : σ.s + 1#8 + 1#8 = σ.s + 2#8 := BitVec.add_assoc σ.s 1#8 1#8
  have hmsb : σ.s + 1#8 + 2#8 = σ.s + 3#8 := BitVec.add_assoc σ.s 1#8 2#8
  rw [State.returnFromInterrupt_p, State.pullP_p_eq, State.putF_s, State.dropTop_s, hlsb, hmsb]; rfl

end pulls

/-! ### What a call and an interrupt entry push -/

section pushes
variable (σ : State)

/-- Different distances below an index name different stack locations. -/
theorem stackAddr_sub_ne (i : Byte) {j k : Byte} (h : j ≠ k) : stackAddr (i - j) ≠ stackAddr (i - k) :=
  fun heq => h ((BitVec.sub_right_inj i).mp (stackAddr_inj heq))

theorem stackAddr_ne_sub (i : Byte) {k : Byte} (h : k ≠ 0x00#8) : stackAddr i ≠ stackAddr (i - k) := by
  simpa using stackAddr_sub_ne i h.symm

/-- Two pushes take 2 from the index. -/
theorem sub_one_sub_one (i : Byte) : i - 1#8 - 1#8 = i - 2#8 := by bv_omega

/-- An interrupt entry moves S by three. -/
theorem State.interruptEntry_s_eq (vec : Address) (byBrk : Bool) :
    (σ.interruptEntry vec byBrk).s = σ.s - 3#8 := by
  rw [State.interruptEntry_s]; bv_omega

/-- A pushed word stands in the two locations from S down, its MSB in the upper (20_memory.md R41). -/
theorem State.read_pushWord_stack (w : Address) :
    (σ.pushWord w).read (stackAddr σ.s) = hi w ∧ (σ.pushWord w).read (stackAddr (σ.s - 1#8)) = lo w := by
  have hne : stackAddr σ.s ≠ stackAddr (σ.s - 1#8) := stackAddr_ne_sub σ.s (by decide)
  simp [State.read_pushWord, hne]

/-- An interrupt entry leaves P and the old F in the three locations from S down (60_exceptions.md R206). -/
theorem State.read_interruptEntry_stack (vec : Address) (byBrk : Bool) :
    (σ.interruptEntry vec byBrk).read (stackAddr σ.s) = hi σ.p ∧
      (σ.interruptEntry vec byBrk).read (stackAddr (σ.s - 1#8)) = lo σ.p ∧
      (σ.interruptEntry vec byBrk).read (stackAddr (σ.s - 2#8)) = σ.f := by
  have h01 : stackAddr σ.s ≠ stackAddr (σ.s - 1#8) := stackAddr_ne_sub σ.s (by decide)
  have h02 : stackAddr σ.s ≠ stackAddr (σ.s - 2#8) := stackAddr_ne_sub σ.s (by decide)
  have h12 : stackAddr (σ.s - 1#8) ≠ stackAddr (σ.s - 2#8) := stackAddr_sub_ne σ.s (by decide)
  simp [State.read_interruptEntry, sub_one_sub_one, h01, h02, h12]

/-- An interrupt entry leaves every byte outside the three locations it pushes to (60_exceptions.md R206). -/
theorem State.read_interruptEntry_of_notMem (vec : Address) (byBrk : Bool) {a : Address}
    (h : a ∉ [stackAddr σ.s, stackAddr (σ.s - 1#8), stackAddr (σ.s - 2#8)]) :
    (σ.interruptEntry vec byBrk).read a = σ.read a := by
  simp only [List.mem_cons, List.not_mem_nil, or_false, not_or] at h
  simp [State.read_interruptEntry, sub_one_sub_one, h]

end pushes

/-! ### Each return undoes its entry -/

section inverse
variable {σ τ : State}

/-- `WriteF` keeps a byte whose R flag is 0 (10_state.md R21). -/
theorem writeF_of_r_eq_false {f : Byte} (h : getFlag f .r = false) : writeF f = f :=
  eq_of_getFlag fun fl => by
    rw [getFlag_writeF]
    split
    next hr => rw [hr, h]
    next => rfl

/-- Pulling P from the memory and the S that a push of a word left gives the word and the S before the push. -/
theorem State.pullP_of_pushWord {w : Address} (hmem : τ.mem = (σ.pushWord w).mem) (hs : τ.s = (σ.pushWord w).s) :
    τ.pullP.p = w ∧ τ.pullP.s = σ.s := by
  obtain ⟨hmsb, hlsb⟩ := σ.read_pushWord_stack w
  have h1 : τ.s + 1#8 = σ.s - 1#8 := by rw [hs, State.pushWord_s, BitVec.sub_add_cancel]
  have h2 : τ.s + 2#8 = σ.s := by rw [hs, State.pushWord_s, sub_one_sub_one, BitVec.sub_add_cancel]
  rw [State.pullP_p_eq, State.pullP_s_eq, h1, h2, State.read_congr hmem, State.read_congr hmem, hmsb, hlsb]
  exact ⟨word_hi_lo w, rfl⟩

/-- A return from the memory and the S that an interrupt entry left gives the F, P and S before the entry
(60_exceptions.md R210), if R was 0. -/
theorem State.returnFromInterrupt_of_interruptEntry {vec : Address} {byBrk : Bool} (hr : σ.flag .r = false)
    (hmem : τ.mem = (σ.interruptEntry vec byBrk).mem) (hs : τ.s = (σ.interruptEntry vec byBrk).s) :
    τ.returnFromInterrupt.f = σ.f ∧ τ.returnFromInterrupt.p = σ.p ∧ τ.returnFromInterrupt.s = σ.s := by
  obtain ⟨hmsb, hlsb, hstatus⟩ := σ.read_interruptEntry_stack vec byBrk
  have h1 : τ.s + 1#8 = σ.s - 2#8 := by rw [hs, State.interruptEntry_s_eq]; bv_omega
  have h2 : τ.s + 2#8 = σ.s - 1#8 := by rw [hs, State.interruptEntry_s_eq]; bv_omega
  have h3 : τ.s + 3#8 = σ.s := by rw [hs, State.interruptEntry_s_eq, BitVec.sub_add_cancel]
  refine ⟨?status, ?counter, ?index⟩
  case status => rw [State.returnFromInterrupt_f_eq, h1, State.read_congr hmem, hstatus, writeF_of_r_eq_false hr]
  case counter =>
    rw [State.returnFromInterrupt_p_eq, h2, h3, State.read_congr hmem, State.read_congr hmem, hmsb, hlsb, word_hi_lo]
  case index => rw [State.returnFromInterrupt_s_eq, h3]

end inverse

/-! ### BREAK at step 1 -/

section breakRequest
variable {σ : State}

/-- Nothing is requested and nothing is to come from outside. -/
structure State.Quiet (σ : State) : Prop where
  input : σ.irqInput = []
  reset : σ.reqReset = false
  react : σ.reqReact = false
  breakExt : σ.reqBreakExt = false
  breakBrk : σ.reqBreakBrk = false

/-- A BREAK that nothing outranks and D does not mask is the one processed (60_exceptions.md R203, R204). -/
theorem State.processInterrupts_of_break (hreset : σ.takeInput.reqReset = false) (hreact : σ.takeInput.reqReact = false)
    (hbreak : (σ.takeInput.reqBreakExt || σ.reqBreakBrk) = true) (hd : σ.flag .d = false) :
    σ.processInterrupts = σ.takeInput.clearRequests.interruptEntry breakVector σ.reqBreakBrk := by
  simp [State.processInterrupts, State.select, hreset, hreact, hbreak, hd]

/-- Where at most a masked BREAK is requested, step 1 only drops the requests (60_exceptions.md R204, D11, D25). -/
theorem State.processInterrupts_of_none (hreset : σ.takeInput.reqReset = false) (hreact : σ.takeInput.reqReact = false)
    (hbreak : (σ.takeInput.reqBreakExt || σ.reqBreakBrk) = false ∨ σ.flag .d = true) :
    σ.processInterrupts = σ.takeInput.clearRequests := by
  obtain h | h := hbreak <;> simp [State.processInterrupts, State.select, hreset, hreact, h]

theorem State.Quiet.takeInput (h : σ.Quiet) : σ.takeInput = σ := State.takeInput_of_nil h.input

theorem State.Quiet.clearRequests (h : σ.Quiet) : σ.clearRequests = σ := by
  obtain ⟨_, hreset, hreact, hext, hbrk⟩ := h
  cases σ
  simp_all [State.clearRequests]

/-- Where nothing is requested, step 1 does nothing. -/
theorem State.Quiet.processInterrupts (h : σ.Quiet) : σ.processInterrupts = σ := by
  have hnone := State.processInterrupts_of_none (σ := σ) (by rw [h.takeInput, h.reset])
    (by rw [h.takeInput, h.react]) (.inl (by rw [h.takeInput, h.breakExt, h.breakBrk]; rfl))
  rw [hnone, h.takeInput, h.clearRequests]

/-- What an interrupt entry at step 1 leaves, its vector lying above the stack page (60_exceptions.md R206). -/
theorem entered_of_processInterrupts {vec : Address} {byBrk : Bool} (hlow : 0x0200 ≤ vec.toNat)
    (hhigh : vec.toNat ≤ 0xFFFE)
    (h : σ.processInterrupts = σ.takeInput.clearRequests.interruptEntry vec byBrk) :
    Entered σ σ.processInterrupts vec byBrk := by
  obtain ⟨hmsb, hlsb, hstatus⟩ := σ.takeInput.clearRequests.read_interruptEntry_stack vec byBrk
  have hindex := σ.takeInput.clearRequests.interruptEntry_s_eq vec byBrk
  have hmemory (a : Address) := σ.takeInput.clearRequests.read_interruptEntry_of_notMem vec byBrk (a := a)
  simp only [← h, State.clearRequests_s, State.clearRequests_p, State.clearRequests_f, State.read_clearRequests,
    State.takeInput_s, State.takeInput_p, State.takeInput_f, State.read_takeInput]
    at hmsb hlsb hstatus hindex hmemory
  obtain ⟨hreset, hreact, hext, hbrk, hinput⟩ := σ.processInterrupts_requests
  have hp : σ.processInterrupts.p = σ.processInterrupts.readWord vec := by rw [h]; rfl
  have hnext : 0x0200 ≤ (vec + 1#16).toNat := by bv_omega
  exact {
    msb := hmsb
    lsb := hlsb
    status := hstatus
    index := hindex
    handler := by
      rw [hp, State.readWord, State.read_processInterrupts_of_le hnext, State.read_processInterrupts_of_le hlow]
    disabled := by simp [h, State.flag_interruptEntry]
    cause := by simp [h, State.flag_interruptEntry]
    flags := fun fl hd hb => by simp [h, State.flag_interruptEntry, hd, hb]
    regs := by simp [h]
    memory := hmemory
    requests := ⟨hreset, hreact, hext, hbrk⟩
    inputs := hinput
    cycles := by simp [h] }

/-- The state in which a `BRK` at P leaves the machine: P past it, its request raised, its cycle spent (R102, D10). -/
def State.afterBrk (σ : State) : State :=
  { σ with p := σ.p + 1#16, reqBreakBrk := true, cycles := σ.cycles + 1 }

/-- Where nothing is requested, a step at a `BRK` runs it. -/
theorem step_brk (h : σ.Quiet) (hread : σ.read σ.p = 0x01#8) : step σ = .next σ.afterBrk := by
  have hfetch : σ.fetch = .ok .brk := State.fetch_eq_ok_iff.mpr ⟨rfl, congrArg ([·]) hread⟩
  rw [step_of_fetch (h.processInterrupts.symm ▸ hfetch), h.processInterrupts]
  rfl

theorem State.Quiet.takeInput_afterBrk (h : σ.Quiet) : σ.afterBrk.takeInput = σ.afterBrk :=
  State.takeInput_of_nil h.input

/-- With D = 0 the next step 1 enters BREAK on behalf of the `BRK` (40_system.md R102; 60_exceptions.md R206). -/
theorem State.Quiet.entered_afterBrk (h : σ.Quiet) (hd : σ.flag .d = false) :
    Entered σ.afterBrk σ.afterBrk.processInterrupts 0xFFFA#16 true := by
  have htake := h.takeInput_afterBrk
  have hentry := State.processInterrupts_of_break (σ := σ.afterBrk) (by rw [htake]; exact h.reset)
    (by rw [htake]; exact h.react) (by simp [State.afterBrk]) hd
  exact entered_of_processInterrupts (by decide) (by decide) hentry

/-- With D = 1 the next step 1 drops the request (40_system.md R102; D11, D25). -/
theorem State.Quiet.processInterrupts_afterBrk (h : σ.Quiet) (hd : σ.flag .d = true) :
    σ.afterBrk.processInterrupts = { σ with p := σ.p + 1#16, cycles := σ.cycles + 1 } := by
  have htake := h.takeInput_afterBrk
  have hdrop : σ.afterBrk.clearRequests = { σ.clearRequests with p := σ.p + 1#16, cycles := σ.cycles + 1 } := rfl
  have hnone := State.processInterrupts_of_none (σ := σ.afterBrk) (by rw [htake]; exact h.reset)
    (by rw [htake]; exact h.react) (.inr hd)
  rw [hnone, htake, hdrop, h.clearRequests]

end breakRequest

/-! ### The statements -/

/-- Settles O28: RTI is the return, which undoes the entry. -/
theorem rtiInvertsTheEntry : Obligations.RtiInvertsTheEntry := by
  intro σ τ vec byBrk hr hmem hs
  obtain ⟨hf, hp, hs⟩ := State.returnFromInterrupt_of_interruptEntry hr hmem hs
  exact ⟨τ.returnFromInterrupt, rfl, hf, hp, hs, rfl, rfl, rfl⟩

/-- Settles O29: the step runs the BRK, and the next step 1 finds its request unmasked. -/
theorem brkTrapsToTheNextInstruction : Obligations.BrkTrapsToTheNextInstruction := by
  intro σ hread hinput hreset hreact hext hbrk hd
  have hquiet : σ.Quiet := ⟨hinput, hreset, hreact, hext, hbrk⟩
  have hentered := hquiet.entered_afterBrk hd
  exact ⟨_, step_brk hquiet hread, rfl, hentered, hentered.msb, hentered.lsb, hentered.status⟩

/-- Settles O30: the step runs the BRK, and the next step 1 finds its request masked. -/
theorem brkWhileMaskedIsANop : Obligations.BrkWhileMaskedIsANop := by
  intro σ hread hinput hreset hreact hext hbrk hd
  have hquiet : σ.Quiet := ⟨hinput, hreset, hreact, hext, hbrk⟩
  exact ⟨_, step_brk hquiet hread, hquiet.processInterrupts_afterBrk hd⟩

/-- Settles O34: the three locations read are those above S. -/
theorem rtiRestoresFAndP : Obligations.RtiRestoresFAndP := by
  refine ⟨⟨rfl, rfl, rfl⟩, fun σ => ?_⟩
  have hexec : exec .rti σ = .next σ.returnFromInterrupt := rfl
  refine ⟨_, hexec, σ.returnFromInterrupt_f_eq, ?counter, ?index, exec_kept hexec (by decide)⟩
  case counter => rw [State.returnFromInterrupt_p_eq, word_toNat, Nat.mul_comm, Nat.add_comm]
  case index => rw [State.returnFromInterrupt_s_eq, BitVec.toNat_add]; rfl

/-- Settles O35: the two locations read are those above S. -/
theorem retRestoresP : Obligations.RetRestoresP := by
  refine ⟨⟨rfl, rfl, rfl⟩, fun σ => ?_⟩
  have hexec : exec .ret σ = .next σ.pullP := rfl
  refine ⟨_, hexec, ?counter, ?index, exec_kept hexec (by decide)⟩
  case counter => rw [State.pullP_p_eq, word_toNat, Nat.mul_comm, Nat.add_comm]
  case index => rw [State.pullP_s_eq, BitVec.toNat_add]; rfl

/-- Settles O36: both are `WriteF`, of a bitwise combination of F with the operand. -/
theorem forAndFndWriteTheFlags : Obligations.ForAndFndWriteTheFlags := by
  refine fun b σ => ⟨⟨rfl, rfl, rfl⟩, ⟨rfl, rfl, rfl⟩, ?set, ?clear⟩
  case set =>
    have hexec : exec (.for_ b) σ = .next (σ.putF (σ.f ||| b)) := rfl
    exact ⟨_, hexec, fun fl hne => (σ.flag_putF_of_ne _ hne).trans BitVec.getLsbD_or, σ.flag_putF_r _, rfl,
      exec_kept hexec nofun⟩
  case clear =>
    have hexec : exec (.fnd b) σ = .next (σ.putF (σ.f &&& b)) := rfl
    exact ⟨_, hexec, fun fl hne => (σ.flag_putF_of_ne _ hne).trans BitVec.getLsbD_and, σ.flag_putF_r _, rfl,
      exec_kept hexec nofun⟩

/-- Settles O43: CAL pushes the address of the instruction after it, and RET pulls that word. -/
theorem retReturnsPastTheCal : Obligations.RetReturnsPastTheCal := by
  intro m σ t τ hcal hmem hs
  cases hcal
  have hexec : exec .ret τ = .next τ.pullP := rfl
  obtain ⟨hp, hs⟩ := State.pullP_of_pushWord (σ := σ) (w := σ.p) hmem hs
  exact ⟨_, hexec, hp, hs, exec_kept hexec (by decide)⟩

/-- Settles O32: the byte and the cycle by the tables, the next state by the meaning of NOP. -/
theorem nopDoesNothing : Obligations.NopDoesNothing := ⟨⟨rfl, rfl, rfl⟩, fun _ => rfl⟩

end Sys2Proof.Machine

/-! ## Increment, decrement and inversion

The rules of 41_incdec.md, and NOT, whose meaning has the shape of INC's: an instruction whose meaning is a result in
a register, or a result at `addr`, with N and Z from it. What is left for each instruction is its result as a number. -/

namespace Sys2Proof.Machine

/-! ### Results as numbers -/

/-- Incrementing wraps modulo 256 (41_incdec.md, 92_eei_decisions.md D4). -/
theorem byte_add_one (b : Byte) : b + 1#8 = BitVec.ofNat 8 (b.toNat + 1) := by
  rw [BitVec.ofNat_add, BitVec.ofNat_toNat, BitVec.setWidth_eq]

/-- Decrementing is adding 255 modulo 256 (41_incdec.md, 92_eei_decisions.md D4). -/
theorem byte_sub_one (b : Byte) : b - 1#8 = BitVec.ofNat 8 (b.toNat + 255) := by
  rw [BitVec.ofNat_add, BitVec.ofNat_toNat, BitVec.setWidth_eq, BitVec.sub_eq_add_neg]; rfl

/-- Inverting every bit is taking from 255 (46_logic.md R184, R185). -/
theorem byte_xor_ones (b : Byte) : b ^^^ 0xFF#8 = BitVec.ofNat 8 (255 - b.toNat) := by
  have hnot : b ^^^ 0xFF#8 = ~~~b := BitVec.xor_allOnes
  rw [hnot]
  bv_omega

/-! ### A result with N and Z from it -/

section result
variable {i : Instr} {σ : State} {r : Reg}

/-- An instruction whose meaning is a result in a register, N and Z from it. -/
theorem givesReg_of_exec {v : Byte} (h : exec i σ = .next (σ.setRegNZ r v)) : GivesReg i σ r v := by
  have hreg : (σ.setRegNZ r v).reg r = v := by rw [State.setRegNZ_reg, if_pos rfl]
  exact ⟨_, h, hreg, showsNZ_of_f (State.setRegNZ_f _ _ _), State.setRegNZ_p _ _ _, (within_setRegNZ σ r v).kept rfl⟩

/-- An instruction whose meaning is to change the byte at `addr`, N and Z from the new byte. -/
theorem givesByte_of_exec {m : Operand} {g : Byte → Byte} (h : exec i σ = .next (σ.modify m g)) :
    GivesByte i σ (addrOf σ m) (g (dataOf σ m)) := by
  have hread : (σ.modify m g).read (addrOf σ m) = g (dataOf σ m) := by rw [State.read_modify, if_pos rfl]
  exact ⟨_, h, hread, showsNZ_of_f (State.modify_f _ _ _), State.modify_p _ _ _, (within_modify σ m g).kept rfl⟩

theorem givesReg_of_increment (h : exec i σ = .next (σ.setRegNZ r (σ.reg r + 1#8))) :
    GivesReg i σ r (BitVec.ofNat 8 ((σ.reg r).toNat + 1)) := by
  rw [← byte_add_one]
  exact givesReg_of_exec h

theorem givesReg_of_decrement (h : exec i σ = .next (σ.setRegNZ r (σ.reg r - 1#8))) :
    GivesReg i σ r (BitVec.ofNat 8 ((σ.reg r).toNat + 255)) := by
  rw [← byte_sub_one]
  exact givesReg_of_exec h

end result

/-! ### The statements -/

/-- Settles O37: each of the eight increments or decrements its register. -/
theorem registerIncrementsAndDecrements : Obligations.RegisterIncrementsAndDecrements :=
  ⟨⟨rfl, rfl, rfl⟩, ⟨rfl, rfl, rfl⟩, ⟨rfl, rfl, rfl⟩, ⟨rfl, rfl, rfl⟩, ⟨rfl, rfl, rfl⟩, ⟨rfl, rfl, rfl⟩,
    ⟨rfl, rfl, rfl⟩, ⟨rfl, rfl, rfl⟩, fun _ =>
    ⟨givesReg_of_increment rfl, givesReg_of_decrement rfl, givesReg_of_increment rfl, givesReg_of_decrement rfl,
      givesReg_of_increment rfl, givesReg_of_decrement rfl, givesReg_of_increment rfl, givesReg_of_decrement rfl⟩⟩

/-- Settles O38: the rows by the tables, mode by mode, and each of the three by the number its change makes. -/
theorem memoryIncDecAndNot : Obligations.MemoryIncDecAndNot := by
  refine ⟨fun m => ?incRows, fun m => ?decRows, fun m => ?notRows, fun m σ => ⟨?inc, ?dec, ?not⟩⟩
  case incRows =>
    cases m with
    | imm | rel => rfl
    | abs | abx | aby | zpg | zpx | zpy | vec | zvx | zyv => exact ⟨rfl, rfl, rfl⟩
  case decRows =>
    cases m with
    | imm | rel => rfl
    | abs | abx | aby | zpg | zpx | zpy | vec | zvx | zyv => exact ⟨rfl, rfl, rfl⟩
  case notRows =>
    cases m with
    | abs | abx | zpg | zpx => exact ⟨rfl, rfl, rfl⟩
    | imm | rel | aby | zpy | vec | zvx | zyv => rfl
  case inc =>
    rw [← byte_add_one]
    exact givesByte_of_exec (g := (· + 1#8)) rfl
  case dec =>
    rw [← byte_sub_one]
    exact givesByte_of_exec (g := (· - 1#8)) rfl
  case not =>
    rw [← byte_xor_ones]
    exact givesByte_of_exec (g := (· ^^^ 0xFF#8)) rfl

end Sys2Proof.Machine

/-! ## Jumps, the call and CLC

The rules of 42_jumps.md. A conditional jump is `State.jumpIf` on one flag, so the sixteen differ only in which flag
they read and in the value they test for; a call is a push of P followed by a jump. -/

namespace Sys2Proof.Machine

/-! ### Conditional jumps -/

section conditional
variable {mk : Byte → Instr} {op : Byte} {fl : Flag}

/-- An instruction whose meaning is `State.jumpIf` on a condition that says the flag has the value tested. -/
theorem jumpsWhen_of_exec {v : Bool} {cond : State → Bool} (hform : ∀ o, FormIs (mk o) [op, o] 2)
    (hexec : ∀ o σ, exec (mk o) σ = .next (σ.jumpIf (cond σ) o)) (hcond : ∀ σ, cond σ = true ↔ σ.flag fl = v) :
    JumpsWhen mk op fl v := by
  refine fun o σ => ⟨hform o, _, hexec o σ, ?target, (within_jumpIf σ (cond σ) o).kept rfl⟩
  case target => simp only [State.jumpIf_p, hcond, addrOf]

/-- The shape of `JFx` (42_jumps.md R121 to R128). -/
theorem jumpsWhen_false_of_exec (hform : ∀ o, FormIs (mk o) [op, o] 2)
    (hexec : ∀ o σ, exec (mk o) σ = .next (σ.jumpIf (!σ.flag fl) o)) : JumpsWhen mk op fl false :=
  jumpsWhen_of_exec hform hexec fun σ => Iff.of_eq (Bool.not_eq_true' (σ.flag fl))

/-- The shape of `JTx` (42_jumps.md R129 to R136). -/
theorem jumpsWhen_true_of_exec (hform : ∀ o, FormIs (mk o) [op, o] 2)
    (hexec : ∀ o σ, exec (mk o) σ = .next (σ.jumpIf (σ.flag fl) o)) : JumpsWhen mk op fl true :=
  jumpsWhen_of_exec hform hexec fun _ => Iff.rfl

end conditional

/-! ### The call -/

/-- Pushing a word takes 2 from S modulo 256 (20_memory.md R47, R49). -/
theorem State.pushWord_s_toNat (σ : State) (w : Address) : (σ.pushWord w).s.toNat = (σ.s.toNat + 254) % 256 := by
  rw [State.pushWord_s, sub_one_sub_one, BitVec.toNat_sub, Nat.add_comm]; rfl

/-! ### The statements -/

/-- Settles O42: the two bytes of P stand where a pushed word does, and the jump that follows moves P alone. -/
theorem calPushesTheReturnAddress : Obligations.CalPushesTheReturnAddress := by
  refine ⟨fun m => ?rows, fun m σ => ?call⟩
  case rows =>
    cases m with
    | imm | rel => rfl
    | abs | abx | aby | zpg | zpx | zpy | vec | zvx | zyv => exact ⟨rfl, rfl, rfl⟩
  case call =>
    have hexec : exec (.cal m) σ = .next { σ.pushWord σ.p with p := addrOf σ m } := rfl
    obtain ⟨hmsb, hlsb⟩ := σ.read_pushWord_stack σ.p
    exact ⟨_, hexec, rfl, hmsb, hlsb, σ.pushWord_s_toNat σ.p, exec_kept hexec nofun⟩

/-- Settles O39: each of the sixteen is a jump on its flag, `JFx` on the flag's complement. -/
theorem conditionalJumps : Obligations.ConditionalJumps := by
  refine ⟨?jfb, ?jfc, ?jfd, ?jfn, ?jfr, ?jfu, ?jfv, ?jfz, ?jtb, ?jtc, ?jtd, ?jtn, ?jtr, ?jtu, ?jtv, ?jtz⟩
  case jfb | jfc | jfd | jfn | jfr | jfu | jfv | jfz =>
    exact jumpsWhen_false_of_exec (fun _ => ⟨rfl, rfl, rfl⟩) fun _ _ => rfl
  case jtb | jtc | jtd | jtn | jtr | jtu | jtv | jtz =>
    exact jumpsWhen_true_of_exec (fun _ => ⟨rfl, rfl, rfl⟩) fun _ _ => rfl

/-- Settles O41: the rows by the tables, mode by mode, and P by the meaning of JMP. -/
theorem jmpGoesToAddr : Obligations.JmpGoesToAddr := by
  refine ⟨fun m => ?rows, fun m σ => ?jump⟩
  case rows =>
    cases m with
    | imm => rfl
    | rel | abs | abx | aby | zpg | zpx | zpy | vec | zvx | zyv => exact ⟨rfl, rfl, rfl⟩
  case jump =>
    have hexec : exec (.jmp m) σ = .next { σ with p := addrOf σ m } := rfl
    exact ⟨_, hexec, rfl, exec_kept hexec nofun⟩

/-- Settles O44: of the flags only C is written, with 0. -/
theorem clcClearsC : Obligations.ClcClearsC := by
  refine ⟨⟨rfl, rfl, rfl⟩, fun σ => ?_⟩
  have hexec : exec .clc σ = .next { σ with f := setFlag σ.f .c false } := rfl
  have hclear : getFlag (setFlag σ.f .c false) .c = false := by rw [getFlag_setFlag, if_pos rfl]
  exact ⟨_, hexec, hclear, rfl, exec_kept hexec nofun⟩

end Sys2Proof.Machine

/-! ## Loads and stores

The rules of 43_load_store.md. A load is `State.setRegNZ` of the byte at `addr`, the shape `givesReg_of_exec` speaks of;
a store is `State.store` of a register at `addr`. -/

namespace Sys2Proof.Machine

/-- An instruction whose meaning is to store a byte: no flag is written (43_load_store.md R143 to R145). -/
theorem stores_of_exec {i : Instr} {σ : State} {a : Address} {v : Byte} (h : exec i σ = .next (σ.store a v)) :
    Stores i σ a v :=
  ⟨_, h, σ.read_store_same v a, State.store_p σ a v, (within_store σ a v).kept rfl⟩

/-! ### The statements -/

/-- Settles O46: the rows by the tables, mode by mode, and each of the three as a store of its register at `addr`. -/
theorem storesChangeTheByteAtAddrAlone : Obligations.StoresChangeTheByteAtAddrAlone := by
  refine ⟨fun m => ?staRows, fun m => ?stxRows, fun m => ?styRows, fun m σ => ⟨?sta, ?stx, ?sty⟩⟩
  case staRows =>
    cases m with
    | imm | rel => rfl
    | abs | abx | aby | zpg | zpx | zpy | vec | zvx | zyv => exact ⟨rfl, rfl, rfl⟩
  case stxRows =>
    cases m with
    | imm | rel | abx | zpx | zvx => rfl
    | abs | aby | zpg | zpy | vec | zyv => exact ⟨rfl, rfl, rfl⟩
  case styRows =>
    cases m with
    | imm | rel | aby | zpy | zyv => rfl
    | abs | abx | zpg | zpx | vec | zvx => exact ⟨rfl, rfl, rfl⟩
  case sta | stx | sty => exact stores_of_exec rfl

/-- Settles O45: the rows by the tables, mode by mode, and each of the three as its register set to the byte loaded. -/
theorem loadsCopyTheByteAtAddr : Obligations.LoadsCopyTheByteAtAddr := by
  refine ⟨fun m => ?ldaRows, fun m => ?ldxRows, fun m => ?ldyRows, fun m σ => ⟨?lda, ?ldx, ?ldy⟩⟩
  case ldaRows =>
    cases m with
    | rel => rfl
    | imm | abs | abx | aby | zpg | zpx | zpy | vec | zvx | zyv => exact ⟨rfl, rfl, rfl⟩
  case ldxRows =>
    cases m with
    | rel | abx | zpx | zvx => rfl
    | imm | abs | aby | zpg | zpy | vec | zyv => exact ⟨rfl, rfl, rfl⟩
  case ldyRows =>
    cases m with
    | rel | aby | zpy | zyv => rfl
    | imm | abs | abx | zpg | zpx | vec | zvx => exact ⟨rfl, rfl, rfl⟩
  case lda | ldx | ldy => exact givesReg_of_exec rfl

end Sys2Proof.Machine

/-! ## Transfers

The rules of 44_stack_transfer.md on the transfers to and from A, TAF apart. Each is `State.setRegNZ` of another
register's value, the shape `givesReg_of_exec` speaks of; TFA is the one whose N and Z come from F itself. -/

namespace Sys2Proof.Machine

/-- N from F, read as a byte, is F's bit 7, which is Z (10_state.md R13, R20). -/
theorem State.flag_n_setRegNZ_f (σ : State) (r : Reg) : (σ.setRegNZ r σ.f).flag .n = σ.flag .z := by
  have hbit : σ.f.getLsbD 7 = σ.flag .z := rfl
  rw [State.flag_setRegNZ, if_neg nofun, if_pos rfl, hbit]

/-- Z from F, read as a byte, says that no flag was set (10_state.md R24). -/
theorem State.flag_z_setRegNZ_f (σ : State) (r : Reg) :
    (σ.setRegNZ r σ.f).flag .z = decide (σ.f = 0x00#8) := by
  rw [State.flag_setRegNZ, if_pos rfl, beq_eq_decide]

/-! ### The statements -/

/-- Settles O51: A is set to F as it stands before the transfer, and N and Z come from that same byte. -/
theorem tfaCopiesTheOldF : Obligations.TfaCopiesTheOldF := by
  refine ⟨⟨rfl, rfl, rfl⟩, fun σ => ?transfer⟩
  have hexec : exec .tfa σ = .next (σ.setRegNZ .a σ.f) := rfl
  exact ⟨givesReg_of_exec hexec, _, hexec, σ.flag_n_setRegNZ_f .a, σ.flag_z_setRegNZ_f .a⟩

/-- Settles O50: the bytes and the cycles by the tables, and each of the six as its register set to its source. -/
theorem transfersSetNAndZ : Obligations.TransfersSetNAndZ := by
  refine ⟨?tasForm, ?taxForm, ?tayForm, ?tsaForm, ?txaForm, ?tyaForm, fun σ => ⟨?tas, ?tax, ?tay, ?tsa, ?txa, ?tya⟩⟩
  case tasForm | taxForm | tayForm | tsaForm | txaForm | tyaForm => exact ⟨rfl, rfl, rfl⟩
  case tas | tax | tay | tsa | txa | tya => exact givesReg_of_exec rfl

end Sys2Proof.Machine

/-! ## Compare and arithmetic

The rules of 45_compare_arith.md. The addition core is read as numbers; the subtraction core is the addition core on the
complement of the byte (`subCore_eq_addCore_not`), so what a difference shows and how differences chain over the bytes
of a word follow from the sums. -/

namespace Sys2Proof.Machine

/-! ### The two cores -/

section cores
variable (a m : Byte) (cin : Bool)

/-- A byte from 128 on stands, as a signed number, for itself less 256 (00_scope.md R7). -/
theorem byte_toInt (b : Byte) : b.toInt = if b.toNat < 128 then (b.toNat : Int) else (b.toNat : Int) - 256 := by
  rw [BitVec.toInt_eq_toNat_cond]
  split <;> split <;> omega

theorem byte_not_toNat : (~~~m).toNat = 255 - m.toNat := BitVec.toNat_not

/-- The complement of a byte, as a signed number. -/
theorem byte_not_toInt : (~~~m).toInt = -m.toInt - 1 := by
  have hm := m.isLt
  rw [byte_toInt, byte_toInt, byte_not_toNat]
  split <;> split <;> omega

theorem addCore_r : (addCore a m cin).r = BitVec.ofNat 8 (a.toNat + m.toNat + cin.toNat) := rfl

theorem addCore_r_toNat : (addCore a m cin).r.toNat = (a.toNat + m.toNat + cin.toNat) % 256 := BitVec.toNat_ofNat _ _

theorem addCore_c : (addCore a m cin).c = decide (255 < a.toNat + m.toNat + cin.toNat) := rfl

theorem addCore_n : (addCore a m cin).n = decide (128 ≤ (a.toNat + m.toNat + cin.toNat) % 256) := by
  rw [← addCore_r_toNat, ← getLsbD_seven]; rfl

theorem addCore_z : (addCore a m cin).z = decide ((a.toNat + m.toNat + cin.toNat) % 256 = 0) := by
  have hz : (addCore a m cin).z = ((addCore a m cin).r == 0x00#8) := rfl
  rw [hz, ← addCore_r_toNat, beq_eq_decide, decide_eq_decide, ← BitVec.toNat_inj]; rfl

/-- Operands of one sign with a result of the other: the signed sum does not fit a byte (R170). -/
theorem addCore_v :
    (addCore a m cin).v =
      decide (a.toInt + m.toInt + (cin.toNat : Int) < -128 ∨ 127 < a.toInt + m.toInt + (cin.toNat : Int)) := by
  have ha := a.isLt
  have hm := m.isLt
  have hcin := cin.toNat_le
  have hv : (addCore a m cin).v = (a.getLsbD 7 == m.getLsbD 7 && (addCore a m cin).r.getLsbD 7 != a.getLsbD 7) := rfl
  rw [hv, getLsbD_seven, getLsbD_seven, getLsbD_seven, addCore_r_toNat, byte_toInt, byte_toInt, Bool.eq_iff_iff]
  simp only [Bool.and_eq_true, beq_iff_eq, bne_iff_ne, ne_eq, decide_eq_decide, decide_eq_true_eq]
  split <;> split <;> omega

/-- C is the bit that the sum has beyond its byte (R170). -/
theorem addCore_r_add_c :
    (addCore a m cin).r.toNat + 256 * (addCore a m cin).c.toNat = a.toNat + m.toNat + cin.toNat := by
  have ha := a.isLt
  have hm := m.isLt
  have hcin := cin.toNat_le
  rw [addCore_r_toNat, addCore_c]
  by_cases h : 255 < a.toNat + m.toNat + cin.toNat
  · rw [decide_eq_true h, Bool.toNat_true]
    omega
  · rw [decide_eq_false h, Bool.toNat_false]
    omega

theorem subCore_r :
    (subCore a m cin).r = BitVec.ofInt 8 ((a.toNat : Int) - (m.toNat : Int) - (1 - (cin.toNat : Int))) := rfl

/-- C after a subtraction, with `SUB_CARRY` as the spec decides it (D7). -/
theorem subCore_c :
    (subCore a m cin).c = decide (0 ≤ (a.toNat : Int) - (m.toNat : Int) - (1 - (cin.toNat : Int))) := rfl

/-- The sum with the complement is the difference and 256. -/
theorem add_not_eq_sub :
    ((a.toNat + (~~~m).toNat + cin.toNat : Nat) : Int) =
      (a.toNat : Int) - (m.toNat : Int) - (1 - (cin.toNat : Int)) + 256 := by
  have hm := m.isLt
  rw [byte_not_toNat]
  omega

theorem AluOut.eq_of_outputs {o q : AluOut} (hr : o.r = q.r) (hc : o.c = q.c) (hv : o.v = q.v) (hn : o.n = q.n)
    (hz : o.z = q.z) : o = q :=
  AluOut.mk.injEq .. ▸ ⟨hr, hc, hv, hn, hz⟩

/-- A difference is the sum with the complement, in the byte and in all four flags (R170; D7, D8). -/
theorem subCore_eq_addCore_not : subCore a m cin = addCore a (~~~m) cin := by
  have hsum := add_not_eq_sub a m cin
  have hr : (subCore a m cin).r = (addCore a (~~~m) cin).r := by
    have hwrap : BitVec.ofInt 8 256 = 0#8 := by decide
    rw [subCore_r, addCore_r, ← BitVec.ofInt_natCast, hsum, BitVec.ofInt_add, hwrap, BitVec.add_zero]
  refine AluOut.eq_of_outputs hr ?carry ?overflow ?negative ?zero
  case carry =>
    rw [subCore_c, addCore_c, decide_eq_decide]
    omega
  case overflow =>
    have hsigns (b c : Bool) : (b != c) = (b == !c) := by cases b <;> cases c <;> rfl
    have hbit : (~~~m).getLsbD 7 = !m.getLsbD 7 := by simp
    have hsub : (subCore a m cin).v =
      (a.getLsbD 7 != m.getLsbD 7 && (subCore a m cin).r.getLsbD 7 != a.getLsbD 7) := rfl
    rw [hsub, hsigns, ← hbit, hr]
    rfl
  case negative => exact congrArg (BitVec.getLsbD · 7) hr
  case zero => exact congrArg (· == 0x00#8) hr

end cores

/-! ### What a sum and a difference show -/

section shows
variable {t : State} {f a m : Byte} {cin : Bool}

/-- An F that an arithmetic core wrote shows the core's four flags. -/
theorem flags_of_f {o : AluOut} (h : t.f = setCVNZ f o) :
    t.flag .c = o.c ∧ t.flag .v = o.v ∧ t.flag .n = o.n ∧ t.flag .z = o.z := by
  simp [State.flag, h, getFlag_setCVNZ]

theorem showsSum_of_f (h : t.f = setCVNZ f (addCore a m cin)) : ShowsSum t a m cin := by
  obtain ⟨hc, hv, hn, hz⟩ := flags_of_f h
  exact ⟨hc.trans (addCore_c a m cin), hv.trans (addCore_v a m cin), hn.trans (addCore_n a m cin),
    hz.trans (addCore_z a m cin)⟩

/-- A difference shows what the sum with the complement shows, 256 less. -/
theorem showsDifference_of_f (h : t.f = setCVNZ f (subCore a m cin)) : ShowsDifference t a m cin := by
  rw [subCore_eq_addCore_not] at h
  obtain ⟨hc, hv, hn, hz⟩ := showsSum_of_f h
  have hdiff := add_not_eq_sub a m cin
  have hsigned := byte_not_toInt m
  exact ⟨hc.trans (decide_eq_decide.mpr (by omega)), hv.trans (decide_eq_decide.mpr (by omega)),
    hn.trans (decide_eq_decide.mpr (by omega)), hz.trans (decide_eq_decide.mpr (by omega))⟩

/-- C after a difference with no borrow in is the unsigned order (D7). -/
theorem ShowsDifference.carry (h : ShowsDifference t a m true) : t.flag .c = decide (m.toNat ≤ a.toNat) := by
  obtain ⟨hc, _⟩ := h
  rw [hc, decide_eq_decide, Bool.toNat_true]
  omega

/-- Z after a difference with no borrow in is equality: two bytes agree modulo 256 only if they are equal. -/
theorem ShowsDifference.zero (h : ShowsDifference t a m true) : t.flag .z = decide (a = m) := by
  obtain ⟨_, _, _, hz⟩ := h
  have ha := a.isLt
  have hm := m.isLt
  rw [hz, decide_eq_decide, ← BitVec.toNat_inj, Bool.toNat_true]
  omega

/-- N is the sign of the signed difference where that fits a byte, and the opposite sign where V says it does not. -/
theorem ShowsDifference.less (h : ShowsDifference t a m true) :
    (t.flag .n != t.flag .v) = decide (a.toInt < m.toInt) := by
  obtain ⟨_, hv, hn, _⟩ := h
  have ha := a.isLt
  have hm := m.isLt
  rw [hn, hv, byte_toInt, byte_toInt, Bool.toNat_true, Bool.eq_iff_iff]
  simp only [bne_iff_ne, ne_eq, decide_eq_decide, decide_eq_true_eq]
  split <;> split <;> omega

end shows

/-! ### Chains over the two bytes of a word -/

section chain
variable {w v : Address} {cin : Bool} {low high : AluOut}

/-- Adding the low bytes and then, with their carry, the high bytes adds the words; the second C is the bit that the sum
has beyond its word. -/
theorem addCore_chain_toNat (hlow : low = addCore (lo w) (lo v) cin) (hhigh : high = addCore (hi w) (hi v) low.c) :
    (word high.r low.r).toNat + 65536 * high.c.toNat = w.toNat + v.toNat + cin.toNat := by
  have hlowSum := addCore_r_add_c (lo w) (lo v) cin
  have hhighSum := addCore_r_add_c (hi w) (hi v) low.c
  rw [← hlow, lo_toNat, lo_toNat] at hlowSum
  rw [← hhigh, hi_toNat, hi_toNat] at hhighSum
  rw [word_toNat]
  omega

/-- A carry that counts 65536 in a sum says that the sum reaches 65536. -/
theorem carry_eq_decide {c : Bool} {sum : Nat} (h : w.toNat + 65536 * c.toNat = sum) : c = decide (65536 ≤ sum) := by
  have hw := w.isLt
  cases c with
  | false => exact (decide_eq_false (by rw [Bool.toNat_false] at h; omega)).symm
  | true => exact (decide_eq_true (by rw [Bool.toNat_true] at h; omega)).symm

theorem addCore_chain (hlow : low = addCore (lo w) (lo v) false) (hhigh : high = addCore (hi w) (hi v) low.c) :
    word high.r low.r = w + v ∧ high.c = decide (65536 ≤ w.toNat + v.toNat) := by
  have hsum := addCore_chain_toNat hlow hhigh
  rw [Bool.toNat_false, Nat.add_zero] at hsum
  refine ⟨?sum, carry_eq_decide hsum⟩
  case sum =>
    have hfits := (word high.r low.r).isLt
    apply BitVec.eq_of_toNat_eq
    rw [BitVec.toNat_add]
    omega

theorem lo_not (w : Address) : lo (~~~w) = ~~~lo w := by
  apply BitVec.eq_of_toNat_eq
  rw [lo_toNat, byte_not_toNat, lo_toNat, BitVec.toNat_not]
  omega

theorem hi_not (w : Address) : hi (~~~w) = ~~~hi w := by
  apply BitVec.eq_of_toNat_eq
  rw [hi_toNat, byte_not_toNat, hi_toNat, BitVec.toNat_not]
  omega

/-- Subtracting byte by byte adds the complement of the word and 1 (R170; D7). -/
theorem subCore_chain (hlow : low = subCore (lo w) (lo v) true) (hhigh : high = subCore (hi w) (hi v) low.c) :
    word high.r low.r = w - v ∧ high.c = decide (v.toNat ≤ w.toNat) := by
  rw [subCore_eq_addCore_not, ← lo_not] at hlow
  rw [subCore_eq_addCore_not, ← hi_not] at hhigh
  have hsum := addCore_chain_toNat hlow hhigh
  have hnot : (~~~v).toNat = 65535 - v.toNat := BitVec.toNat_not
  have hv := v.isLt
  refine ⟨?difference, (carry_eq_decide hsum).trans (decide_eq_decide.mpr ?order)⟩
  case difference =>
    have hfits := (word high.r low.r).isLt
    apply BitVec.eq_of_toNat_eq
    rw [BitVec.toNat_sub]
    rw [hnot, Bool.toNat_true] at hsum
    omega
  case order =>
    rw [hnot, Bool.toNat_true]
    omega

end chain

/-! ### C from the low bytes to the high bytes -/

/-- A load keeps C. -/
@[simp] theorem State.flag_c_setRegNZ (σ : State) (r : Reg) (v : Byte) : (σ.setRegNZ r v).flag .c = σ.flag .c := by
  simp [State.flag_setRegNZ]

@[simp] theorem State.flag_c_putAlu (σ : State) (o : AluOut) : (σ.putAlu o).flag .c = o.c := by
  simp [State.flag_putAlu]

@[simp] theorem dataOf_imm (σ : State) (b : Byte) : dataOf σ (.imm b) = b := rfl

/-! ### The statements -/

/-- Settles O55, from the two cores as numbers. -/
theorem subtractionIsAdditionOfTheComplement : Obligations.SubtractionIsAdditionOfTheComplement :=
  subCore_eq_addCore_not

/-- Settles O52: the rows by the tables, mode by mode, and the order of register and byte from the flags of their
difference. -/
theorem comparesShowTheDifference : Obligations.ComparesShowTheDifference := by
  refine ⟨fun m => ?cmpRows, fun m => ?cpxRows, fun m => ?cpyRows, fun m σ => ?compare⟩
  case cmpRows =>
    cases m with
    | rel => rfl
    | imm | abs | abx | aby | zpg | zpx | zpy | vec | zvx | zyv => exact ⟨rfl, rfl, rfl⟩
  case cpxRows =>
    cases m with
    | rel | abx | zpx | zvx => rfl
    | imm | abs | aby | zpg | zpy | vec | zyv => exact ⟨rfl, rfl, rfl⟩
  case cpyRows =>
    cases m with
    | rel | aby | zpy | zyv => rfl
    | imm | abs | abx | zpg | zpx | vec | zvx => exact ⟨rfl, rfl, rfl⟩
  case compare =>
    rintro ⟨i, r⟩ hmem
    have hexec : exec i σ = .next (σ.compare r m) := by
      simp only [List.mem_cons, Prod.mk.injEq, List.not_mem_nil, or_false] at hmem
      obtain ⟨rfl, rfl⟩ | ⟨rfl, rfl⟩ | ⟨rfl, rfl⟩ := hmem <;> rfl
    have hshows : ShowsDifference (σ.compare r m) r (dataOf σ m) true := showsDifference_of_f (State.compare_f σ r m)
    exact ⟨_, hexec, hshows, hshows.carry, hshows.zero, hshows.less, rfl, (within_setCVNZ σ _).kept rfl⟩

/-- Settles O53: the rows by the tables, mode by mode, and each of the two as the subtraction core with its borrow. -/
theorem subtractionsLeaveTheDifference : Obligations.SubtractionsLeaveTheDifference := by
  refine ⟨fun m => ?sbcRows, fun m => ?subRows, fun m σ => ?subtract⟩
  case sbcRows | subRows =>
    cases m with
    | rel => rfl
    | imm | abs | abx | aby | zpg | zpx | zpy | vec | zvx | zyv => exact ⟨rfl, rfl, rfl⟩
  case subtract =>
    rintro ⟨i, cin⟩ hmem
    have hexec : exec i σ = .next (σ.putAlu (subCore σ.a (dataOf σ m) cin)) := by
      simp only [List.mem_cons, Prod.mk.injEq, List.not_mem_nil, or_false] at hmem
      obtain ⟨rfl, rfl⟩ | ⟨rfl, rfl⟩ := hmem <;> rfl
    exact ⟨_, hexec, showsDifference_of_f (State.putAlu_f σ _), subCore_r σ.a (dataOf σ m) cin, rfl,
      (within_putAlu σ _).kept rfl⟩

/-- Settles O54: the rows by the tables, mode by mode, and each of the two as the addition core with its carry. -/
theorem additionsLeaveTheSum : Obligations.AdditionsLeaveTheSum := by
  refine ⟨fun m => ?adcRows, fun m => ?addRows, fun m σ => ?add⟩
  case adcRows | addRows =>
    cases m with
    | rel => rfl
    | imm | abs | abx | aby | zpg | zpx | zpy | vec | zvx | zyv => exact ⟨rfl, rfl, rfl⟩
  case add =>
    rintro ⟨i, cin⟩ hmem
    have hexec : exec i σ = .next (σ.putAlu (addCore σ.a (dataOf σ m) cin)) := by
      simp only [List.mem_cons, Prod.mk.injEq, List.not_mem_nil, or_false] at hmem
      obtain ⟨rfl, rfl⟩ | ⟨rfl, rfl⟩ := hmem <;> rfl
    exact ⟨_, hexec, showsSum_of_f (State.putAlu_f σ _), addCore_r σ.a (dataOf σ m) cin, rfl,
      (within_putAlu σ _).kept rfl⟩

/-- Settles O56: the C of the low bytes reaches the core of the high bytes, so the cores chain. -/
theorem carryChainsComputeWords : Obligations.CarryChainsComputeWords := by
  intro σ w v
  refine ⟨⟨_, _, _, _, rfl, rfl, rfl, rfl, ?sum⟩, ⟨_, _, _, _, rfl, rfl, rfl, rfl, ?difference⟩⟩
  case sum =>
    simp only [State.putAlu_a, State.setRegNZ_a, if_true, State.flag_c_putAlu, State.flag_c_setRegNZ, dataOf_imm]
    exact addCore_chain rfl rfl
  case difference =>
    simp only [State.putAlu_a, State.setRegNZ_a, if_true, State.flag_c_putAlu, State.flag_c_setRegNZ, dataOf_imm]
    exact subCore_chain rfl rfl

end Sys2Proof.Machine

/-! ## Logic

The rules of 46_logic.md on the accumulator. BOR, XOR, AND and NTA are `State.setRegNZ` of A, the shape
`givesReg_of_exec` speaks of; BIT writes the same N and Z as AND, and no register. -/

namespace Sys2Proof.Machine

/-- Settles O57: the rows by the tables, mode by mode; four of the five as A set to the bitwise result, and BIT as F set
from the bits that A and the byte share. -/
theorem logicOnTheAccumulator : Obligations.LogicOnTheAccumulator := by
  refine ⟨fun m => ?borRows, fun m => ?xorRows, fun m => ?andRows, fun m => ?bitRows, ?ntaForm,
    fun m σ => ⟨?bor, ?xor, ?and, ?nta, ?bit⟩⟩
  case borRows | xorRows | andRows | bitRows =>
    cases m with
    | rel => rfl
    | imm | abs | abx | aby | zpg | zpx | zpy | vec | zvx | zyv => exact ⟨rfl, rfl, rfl⟩
  case ntaForm => exact ⟨rfl, rfl, rfl⟩
  case bor | xor | and => exact givesReg_of_exec rfl
  case nta =>
    have hnot : σ.a ^^^ 0xFF#8 = ~~~σ.a := BitVec.xor_allOnes
    rw [← hnot]
    exact givesReg_of_exec rfl
  case bit =>
    have hexec : exec (.bit m) σ = .next { σ with f := setNZ σ.f (σ.a &&& dataOf σ m) } := rfl
    exact ⟨_, hexec, showsNZ_of_f rfl, rfl, exec_kept hexec nofun⟩

end Sys2Proof.Machine

/-! ## Rotations and zeroing

The rules of 47_shift_zero.md. SHL, SHR, SLA and SRA are `State.rotateMem` or `State.rotateA` of one of two functions on
a byte and C, so each law of an instruction is a law of its function. -/

namespace Sys2Proof.Machine

/-! ### A rotated byte as a number -/

theorem rotateLeft_toNat (m : Byte) (cin : Bool) :
    (rotateLeft m cin).1.toNat = m.toNat * 2 % 256 + cin.toNat := by
  have hcin := cin.toNat_le
  refine (BitVec.toNat_ofNat _ _).trans (Nat.mod_eq_of_lt ?_)
  omega

theorem rotateRight_toNat (m : Byte) (cin : Bool) :
    (rotateRight m cin).1.toNat = m.toNat / 2 + 128 * cin.toNat := by
  have hcin := cin.toNat_le
  refine (BitVec.toNat_ofNat _ _).trans (Nat.mod_eq_of_lt ?_)
  omega

/-! ### The nine bits that turn

A byte with C above it is a ring of nine bits. A left rotation turns it by one place, a right rotation by one place the
other way (R190, R191). -/

section ring
variable {o q : Byte × Bool}

/-- The bit at a place of the ring, the places counted modulo 9: 0 to 7 are the byte's, 8 is C's. -/
def ringBit (o : Byte × Bool) (i : Nat) : Bool := (BitVec.cons o.2 o.1).getLsbD (i % 9)

theorem ringBit_of_lt {i : Nat} (h : i < 8) : ringBit o i = o.1.getLsbD i := by
  rw [ringBit, Nat.mod_eq_of_lt (by omega), BitVec.getLsbD_cons, if_neg (by omega)]

theorem ringBit_eight : ringBit o 8 = o.2 := by
  rw [ringBit, BitVec.getLsbD_cons, if_pos rfl]

theorem ringBit_mod (i : Nat) : ringBit o (i % 9) = ringBit o i := by
  rw [ringBit, Nat.mod_mod, ringBit]

theorem eq_of_ringBit (h : ∀ i, ringBit o i = ringBit q i) : o = q := by
  refine Prod.ext (BitVec.eq_of_getLsbD_eq fun i hi => ?byte) ?carry
  case byte => rw [← ringBit_of_lt hi, ← ringBit_of_lt hi, h]
  case carry => rw [← ringBit_eight, ← ringBit_eight, h]

/-- A left rotation of a byte shifts C in from below. -/
theorem rotateLeft_fst (m : Byte) (cin : Bool) : (rotateLeft m cin).1 = m.shiftConcat cin := by
  have hcin := cin.toNat_le
  apply BitVec.eq_of_toNat_eq
  rw [rotateLeft_toNat, BitVec.toNat_shiftConcat, Nat.shiftLeft_eq]
  omega

/-- A right rotation of a byte shifts C in from above. -/
theorem rotateRight_fst (m : Byte) (cin : Bool) :
    (rotateRight m cin).1 = (BitVec.cons cin m).extractLsb' 1 8 := by
  have hcin := cin.toNat_le
  apply BitVec.eq_of_toNat_eq
  rw [rotateRight_toNat, BitVec.extractLsb'_toNat, BitVec.toNat_cons', Nat.shiftLeft_eq, Nat.shiftRight_eq_div_pow]
  omega

/-- A left rotation moves each bit of the ring one place up. -/
theorem ringBit_rotateLeft (o : Byte × Bool) (i : Nat) : ringBit (rotateLeft o.1 o.2) (i + 1) = ringBit o i := by
  rw [← ringBit_mod (i + 1), ← ringBit_mod i]
  obtain hin | hout | hcarry : i % 9 < 7 ∨ i % 9 = 7 ∨ i % 9 = 8 := by omega
  · have hnext : (i + 1) % 9 = i % 9 + 1 := by omega
    rw [hnext, ringBit_of_lt (by omega), ringBit_of_lt (by omega), rotateLeft_fst, BitVec.getLsbD_shiftConcat,
      decide_eq_true (by omega), if_neg (by omega), Nat.add_sub_cancel, Bool.true_and]
  · have hnext : (i + 1) % 9 = 8 := by omega
    rw [hnext, hout, ringBit_eight, ringBit_of_lt (by omega), rotateLeft]
  · have hnext : (i + 1) % 9 = 0 := by omega
    rw [hnext, hcarry, ringBit_eight, ringBit_of_lt (by omega), rotateLeft_fst, BitVec.getLsbD_shiftConcat,
      if_pos rfl, decide_eq_true (by omega), Bool.true_and]

/-- A right rotation moves each bit of the ring one place down. -/
theorem ringBit_rotateRight (o : Byte × Bool) (i : Nat) : ringBit (rotateRight o.1 o.2) i = ringBit o (i + 1) := by
  rw [← ringBit_mod (i + 1), ← ringBit_mod i]
  obtain hin | hout : i % 9 < 8 ∨ i % 9 = 8 := by omega
  · have hnext : (i + 1) % 9 = 1 + i % 9 := by omega
    rw [hnext, ringBit_of_lt hin, rotateRight_fst, BitVec.getLsbD_extractLsb', decide_eq_true hin, Bool.true_and,
      ringBit, Nat.mod_eq_of_lt (show 1 + i % 9 < 9 by omega)]
  · have hnext : (i + 1) % 9 = 0 := by omega
    rw [hnext, hout, ringBit_eight, ringBit_of_lt (by omega), rotateRight]

/-- Nine turns of the ring by the same number of places bring every bit back. -/
theorem repeat_nine_of_turns {f : Byte × Bool → Byte × Bool} {k : Nat}
    (h : ∀ o i, ringBit (f o) (i + k) = ringBit o i) (o : Byte × Bool) : Nat.repeat f 9 o = o := by
  have hturns (n i : Nat) : ringBit (Nat.repeat f n o) (i + n * k) = ringBit o i := by
    induction n with
    | zero => rw [Nat.zero_mul]; rfl
    | succ n ih => rw [Nat.succ_mul, ← Nat.add_assoc]; exact (h _ _).trans ih
  refine eq_of_ringBit fun i => ?_
  rw [← hturns 9 i, ← ringBit_mod (i + 9 * k), Nat.add_mul_mod_self_left, ringBit_mod]

end ring

/-! ### A rotation's result with C, N and Z from it -/

section result
variable {i : Instr} {σ : State} {o : Byte × Bool} {n : Nat}

/-- An instruction whose meaning is to rotate the byte at `addr` (R190, R191). -/
theorem rotatesMem_of_exec {m : Operand} (h : exec i σ = .next (σ.rotateMem m o)) (hn : o.1.toNat = n) :
    ∃ t, exec i σ = .next t ∧ (t.read (addrOf σ m)).toNat = n ∧ t.flag .c = o.2 ∧
      ShowsNZ t (t.read (addrOf σ m)) ∧ t.p = σ.p ∧ Kept σ t [] [.c, .n, .z] [addrOf σ m] := by
  have hread : (σ.rotateMem m o).read (addrOf σ m) = o.1 := by rw [State.read_rotateMem, if_pos rfl]
  have hcarry : (σ.rotateMem m o).flag .c = o.2 := State.flag_rotateMem σ m o .c
  refine ⟨_, h, ?_, hcarry, ?_, State.rotateMem_p σ m o, (within_rotateMem σ m o).kept rfl⟩
  · rw [hread, hn]
  · rw [hread]; exact showsNZ_of_f (State.rotateMem_f σ m o)

/-- An instruction whose meaning is to rotate A (R192, R193). -/
theorem rotatesA_of_exec (h : exec i σ = .next (σ.rotateA o)) (hn : o.1.toNat = n) :
    ∃ t, exec i σ = .next t ∧ t.a.toNat = n ∧ t.flag .c = o.2 ∧ ShowsNZ t t.a ∧ t.p = σ.p ∧
      Kept σ t [.a] [.c, .n, .z] [] :=
  ⟨_, h, hn, State.flag_rotateA σ o .c, showsNZ_of_f (State.rotateA_f σ o), State.rotateA_p σ o,
    (within_rotateA σ o).kept rfl⟩

end result

/-! ### The statements -/

/-- Settles O58: the rows by the tables, mode by mode, and each of the four by the number its rotation makes. -/
theorem shiftsRotateThroughC : Obligations.ShiftsRotateThroughC := by
  refine ⟨fun m => ?shlRows, fun m => ?shrRows, ⟨rfl, rfl, rfl⟩, ⟨rfl, rfl, rfl⟩, fun m σ =>
    ⟨rotatesMem_of_exec rfl (rotateLeft_toNat _ _), rotatesMem_of_exec rfl (rotateRight_toNat _ _),
      rotatesA_of_exec rfl (rotateLeft_toNat _ _), rotatesA_of_exec rfl (rotateRight_toNat _ _)⟩⟩
  case shlRows | shrRows =>
    cases m with
    | abs | abx | zpg | zpx => exact ⟨rfl, rfl, rfl⟩
    | imm | rel | aby | zpy | vec | zvx | zyv => rfl

/-- Settles O59: a left rotation turns the ring of nine bits by one place, a right one by eight, which is one back. -/
theorem nineRotationsRestore : Obligations.NineRotationsRestore := fun m c => by
  have hright (o : Byte × Bool) (i : Nat) : ringBit (rotateRight o.1 o.2) (i + 8) = ringBit o i := by
    rw [ringBit_rotateRight, ← ringBit_mod (i + 8 + 1), Nat.add_assoc, Nat.add_mod_right, ringBit_mod]
  refine ⟨repeat_nine_of_turns ringBit_rotateLeft (m, c), repeat_nine_of_turns hright (m, c),
    eq_of_ringBit fun i => ?_⟩
  rw [ringBit_rotateRight]
  exact ringBit_rotateLeft (m, c) i

/-- Settles O60: each of the three is 0 in its register with N and Z of 0. -/
theorem zeroingSetsZ : Obligations.ZeroingSetsZ := by
  refine ⟨⟨rfl, rfl, rfl⟩, ⟨rfl, rfl, rfl⟩, ⟨rfl, rfl, rfl⟩, fun σ => ?zero⟩
  case zero =>
    rintro ⟨i, r⟩ hmem
    have hexec : exec i σ = .next (σ.setRegNZ r 0x00#8) := by
      simp only [List.mem_cons, Prod.mk.injEq, List.not_mem_nil, or_false] at hmem
      obtain ⟨rfl, rfl⟩ | ⟨rfl, rfl⟩ | ⟨rfl, rfl⟩ := hmem <;> rfl
    obtain ⟨t, ht, hreg, ⟨hn, hz⟩, hp, hkept⟩ := givesReg_of_exec hexec
    exact ⟨t, ht, hreg, hn, hz, hp, hkept⟩

end Sys2Proof.Machine

/-! ## Interrupt entry, requests and time

The rest of 60_exceptions.md and 70_reset_and_hazards.md. What step 1 processes is its `select`, and the cycles of a step
are those of the selection and those of the instruction. That no transition depends on the count is said by
`State.withCycles`: each part of a step commutes with setting the count, up to the cycles that part spends. -/

namespace Sys2Proof.Machine

/-! ### What step 1 processes -/

section step1
variable {σ : State}

/-- A REACT that no RESET outranks is the one processed, whatever D is (60_exceptions.md R203). -/
theorem State.processInterrupts_of_react (hreset : σ.takeInput.reqReset = false)
    (hreact : σ.takeInput.reqReact = true) :
    σ.processInterrupts = σ.takeInput.clearRequests.interruptEntry reactVector false := by
  simp [State.processInterrupts, State.select, hreset, hreact]

/-- Taking in the input and dropping every request uses up one input entry and clears the request bits (R203, D11). -/
theorem State.clearRequests_takeInput (σ : State) :
    σ.takeInput.clearRequests = { σ with
      reqReset := false, reqReact := false, reqBreakExt := false, reqBreakBrk := false,
      irqInput := σ.irqInput.tail } := by
  cases h : σ.irqInput with
  | nil => rw [State.takeInput_of_nil h, State.clearRequests, h, List.tail_nil]
  | cons e rest => rw [State.takeInput_of_cons h]; rfl

end step1

/-! ### The cycles of a step -/

/-- The cycles that processing a selection costs (60_exceptions.md R216). -/
def Selection.cycles : Selection → Nat
  | .none => 0
  | .reset => 2
  | .react | .brk _ => 5

/-- Step 1 spends the cycles of what it processes. -/
theorem State.processInterrupts_cycles (σ : State) :
    σ.processInterrupts.cycles = σ.cycles + σ.takeInput.select.cycles := by
  cases hselect : σ.takeInput.select <;> simp [State.processInterrupts, hselect, Selection.cycles]

theorem modeCost_le (m : Mode) : modeCost m ≤ 4 := by cases m <;> decide

/-- Mode VEC alone costs 4 cycles (70_reset_and_hazards.md R237). -/
theorem eq_vec_of_modeCost {m : Mode} (h : modeCost m = 4) : m = .vec := by
  cases m with
  | vec => rfl
  | _ => cases h

theorem Operand.eq_vec_of_mode {m : Operand} (h : m.mode = .vec) : ∃ w, m = .vec w := by
  cases m with
  | vec w => exact ⟨w, rfl⟩
  | _ => cases h

theorem instrCost_pos (i : Instr) : 1 ≤ instrCost i := by cases i <;> simp [instrCost]

/-- RTI alone costs more than 3 cycles besides its mode (70_reset_and_hazards.md R237). -/
theorem instrCost_le {i : Instr} (h : i ≠ .rti) : instrCost i ≤ 3 := by
  cases i with
  | rti => exact absurd rfl h
  | _ => simp [instrCost]

/-- Of the instructions that cost 3 cycles besides their mode, CAL, INC and DEC alone have mode VEC: RET has no
operand, and NOT, SHL and SHR do not exist in that mode (30_encoding.md R77). -/
theorem eq_cal_inc_dec_of_vec {i : Instr} (hwf : i.wf = true) (hmode : instrMode i = .vec) (hcost : instrCost i = 3) :
    ∃ w, i = .cal (.vec w) ∨ i = .inc (.vec w) ∨ i = .dec (.vec w) := by
  cases i with
  | cal m | inc m | dec m =>
    obtain ⟨w, rfl⟩ := Operand.eq_vec_of_mode hmode
    exact ⟨w, by simp⟩
  | not m | shl m | shr m =>
    obtain ⟨w, rfl⟩ := Operand.eq_vec_of_mode hmode
    cases hwf
  | ret => cases hmode
  | _ => cases hcost

/-! ### The cycle count as a ghost -/

/-- The state with another cycle count. -/
def State.withCycles (σ : State) (c : Nat) : State := { σ with cycles := c }

/-- An outcome with another cycle count in its next state, if it has one. -/
def withCyclesOutcome (c : Nat) : Result → Result
  | .next t => .next (t.withCycles c)
  | .fault r => .fault r
  | .refused r => .refused r

theorem sameButCycles_withCyclesOutcome (c : Nat) (o : Result) : SameButCycles o (withCyclesOutcome c o) := by
  cases o <;> exact rfl

section withCycles
variable (σ : State) (c : Nat)

theorem State.takeInput_withCycles : (σ.withCycles c).takeInput = σ.takeInput.withCycles c := by
  cases h : σ.irqInput with
  | nil => rw [State.takeInput_of_nil h, State.takeInput_of_nil (σ := σ.withCycles c) h]
  | cons e rest => rw [State.takeInput_of_cons h, State.takeInput_of_cons (σ := σ.withCycles c) h]; rfl

theorem State.select_withCycles : (σ.withCycles c).select = σ.select := rfl

/-- Step 1 processes the same whatever the count is, and adds the same to it. -/
theorem State.processInterrupts_withCycles :
    (σ.withCycles c).processInterrupts = σ.processInterrupts.withCycles (c + σ.takeInput.select.cycles) := by
  simp only [State.processInterrupts, State.takeInput_withCycles, State.select_withCycles]
  cases σ.takeInput.select <;> rfl

theorem State.fetch_withCycles : (σ.withCycles c).fetch = σ.fetch := by
  have hbytes : (σ.withCycles c).fetchBytes = σ.fetchBytes := State.bytesAt_congr fun _ _ => rfl
  rw [State.fetch, hbytes, State.fetch]

theorem State.advance_withCycles (i : Instr) :
    (σ.withCycles c).advance i = (σ.advance i).withCycles (c + instrCycles i) := rfl

theorem State.jumpIf_withCycles (cond : Bool) (o : Byte) :
    (σ.withCycles c).jumpIf cond o = (σ.jumpIf cond o).withCycles c := by cases cond <;> rfl

/-- An instruction answers the same whatever the count is, and keeps the count. -/
theorem exec_withCycles (i : Instr) : exec i (σ.withCycles c) = withCyclesOutcome c (exec i σ) := by
  cases i with
  | jfb o | jfc o | jfd o | jfn o | jfr o | jfu o | jfv o | jfz o =>
    exact congrArg Host.Outcome.next (σ.jumpIf_withCycles c _ o)
  | jtb o | jtc o | jtd o | jtn o | jtr o | jtu o | jtv o | jtz o =>
    exact congrArg Host.Outcome.next (σ.jumpIf_withCycles c _ o)
  | _ => rfl

/-- A step answers the same whatever the count is, but for the count. -/
theorem step_withCycles : ∃ c', step (σ.withCycles c) = withCyclesOutcome c' (step σ) := by
  obtain ⟨i, hfetch, _⟩ := σ.processInterrupts.fetch_spec
  have hfetch' : (σ.withCycles c).processInterrupts.fetch = .ok i := by
    rw [State.processInterrupts_withCycles, State.fetch_withCycles, hfetch]
  rw [step_of_fetch hfetch, step_of_fetch hfetch', State.processInterrupts_withCycles, State.advance_withCycles,
    exec_withCycles]
  exact ⟨_, rfl⟩

end withCycles

/-! ### The statements -/

/-- Settles O18: the request of BRK is in the footprint of BRK alone, the other requests, the inputs and the count in
none. -/
theorem onlyBrkRaisesARequest : Obligations.OnlyBrkRaisesARequest := by
  intro i σ t hexec
  have hwithin := exec_within hexec
  obtain ⟨hreset, hreact, hext⟩ := hwithin.requests
  exact ⟨hreset, hreact, hext, fun hi => hwithin.breakBrk (decide_eq_false hi), hwithin.inputs, hwithin.cycles⟩

/-- Settles O20: step 1 spends the cycles of the selection, moving P those of the instruction, `exec` none. -/
theorem stepSpendsTheTabledCycles : Obligations.StepSpendsTheTabledCycles := by
  intro σ t i hfetch hstep
  have hexec : exec i (σ.processInterrupts.advance i) = .next t := (step_of_fetch hfetch).symm.trans hstep
  have hspent : t.cycles = σ.cycles + instrCycles i + σ.takeInput.select.cycles := by
    rw [(exec_within hexec).cycles, State.advance_cycles, State.processInterrupts_cycles, Nat.add_right_comm]
  rw [hspent]
  cases σ.takeInput.select <;> rfl

/-- Settles O21: RTI takes 4 cycles; any other instruction takes 7 only by 4 of mode VEC and 3 of its own. -/
theorem longestInstructionIsSevenCycles : Obligations.LongestInstructionIsSevenCycles := by
  intro i hwf
  have hpos := instrCost_pos i
  by_cases hrti : i = .rti
  · subst hrti
    simp [instrCycles, instrMode, modeCost, instrCost]
  have hmode := modeCost_le (instrMode i)
  have hcost := instrCost_le hrti
  unfold instrCycles
  refine ⟨by omega, by omega, fun hseven => ?_, ?_⟩
  · exact eq_cal_inc_dec_of_vec hwf (eq_vec_of_modeCost (by omega)) (by omega)
  · rintro ⟨w, rfl | rfl | rfl⟩ <;> rfl

/-- Settles O25: the entry through the vector of REACT. -/
theorem reactEntryPushesPAndF : Obligations.ReactEntryPushesPAndF := fun _ hreset hreact =>
  entered_of_processInterrupts (by decide) (by decide) (State.processInterrupts_of_react hreset hreact)

/-- Settles O26: the entry through the vector of BREAK, B by whether BRK is among the causes. -/
theorem breakEntrySetsBForBrk : Obligations.BreakEntrySetsBForBrk := fun _ hreset hreact hcause hd =>
  entered_of_processInterrupts (by decide) (by decide)
    (State.processInterrupts_of_break hreset hreact ((Bool.or_eq_true _ _).mpr hcause) hd)

/-- Settles O27: step 1 processes nothing, so it only takes in the input and drops the requests. -/
theorem maskedBreakChangesNothing : Obligations.MaskedBreakChangesNothing := by
  intro σ hreset hreact hmasked
  rw [State.processInterrupts_of_none hreset hreact (hmasked.imp_left Bool.or_eq_false_iff.mpr),
    State.clearRequests_takeInput]

/-- Settles O19: the step from another count answers the same outcome but for the count. -/
theorem timingChangesNothing : Obligations.TimingChangesNothing := by
  intro σ c
  obtain ⟨c', hstep⟩ := step_withCycles σ c
  exact hstep ▸ sameButCycles_withCyclesOutcome c' (step σ)

end Sys2Proof.Machine
